-- ==== Sys2Proof/Word.lean ====
section
/-! DEFINITION. The words of the machine: bytes, the request record of the host port, the operand bytes of a channel
message, and the four encoded surfaces (30_encoding.md). -/

namespace Sys2Proof

/-- A byte, 0x00..0xFF (R9). -/
abbrev Byte := BitVec 8

/-- A storage path (R7, `Path`, an OPEN type). The model takes strings: notes/assumptions/14.md (DESIGN CHOICE). -/
abbrev Path := String

/-- A manufacturer ID, a sequence of 1 or 3 data bytes (R14). -/
abbrev ManufacturerId := List Byte

/-- A data byte (u7) is a byte whose bit 7 is 0 (R9). -/
abbrev Byte.isData (b : Byte) : Prop := b ≤ 0x7F#8

/-- The legal manufacturer IDs: 1 or 3 data bytes (R14). -/
abbrev ManufacturerId.WellFormed (m : ManufacturerId) : Prop :=
  (m.length = 1 ∨ m.length = 3) ∧ ∀ b ∈ m, Byte.isData b

/-- The operand bytes of a channel voice message: both bytes after the status byte, or fewer than three bytes of the
message in the FIFO (R46, R67). -/
inductive ChanOperands
  | complete (b1 b2 : Byte)
  | incomplete
  deriving DecidableEq, Repr

/-- A host request record `(op, slot, path, bytes)` (R54). -/
structure Request where
  op    : Byte
  slot  : Nat
  path  : Path
  bytes : List Byte
  deriving DecidableEq, Repr

/-- The encoded surfaces of the engine (30_encoding.md; the `format` column of the opcode table). -/
inductive Surface
  | hostRequest
  | inboundHead
  | inboundCapture
  | outboundFrame
  deriving DecidableEq, Repr

/-- A piece of encoded text with the surface it stands on. A request is a record and is not packed into bits (R54). -/
inductive Encoded
  | request (q : Request)
  | head    (bs : List Byte)
  | capture (bs : List Byte)
  | frame   (bs : List Byte)
  deriving DecidableEq, Repr

/-- The surface of an encoded text. -/
def Encoded.surface : Encoded → Surface
  | .request _ => .hostRequest
  | .head _    => .inboundHead
  | .capture _ => .inboundCapture
  | .frame _   => .outboundFrame

end Sys2Proof
end

