-- ==== Sys2Proof/Config.lean ====
section
/-! DEFINITION. The implementation parameters of 00_scope.md rule R7, when a configuration is well formed (R8), the fixed
constants, and the free values the spec leaves to the environment (93_implementation_defined.md, Part 1). -/

namespace Sys2Proof

/-- A hardened variant, outside this spec (R4; the rows SYSEX_CAPTURE_LIMIT and MAX_SAMPLE of R7, which the spec sets to
"unbounded"). A configuration that asks for one is refused (R122). -/
inductive HardenedVariant
  | captureLimit (n : Nat)
  | maxSample (n : Nat)
  | multiFrameUpload
  | requeueFailedUpload
  | perSlotResultList
  deriving DecidableEq, Repr

/-- The function `derive_name` (R7, OPEN; D28): the path itself (the test configuration of 95_test_vectors.md), or the
`k`-th uninterpreted function of the path. DESIGN CHOICE, notes/assumptions/14.md. -/
inductive NameRule
  | pathItself
  | implementation (k : Nat)
  deriving DecidableEq, Repr

/-- The configuration of the engine (R7). The defaults of `mfrId` and `negClearOnMiss` are the spec's; those of the OPEN
parameters are the test configuration of 95_test_vectors.md: DESIGN CHOICE, notes/assumptions/6.md. -/
structure Config where
  /-- `NUM_SLOTS` -/
  numSlots       : Nat := 16
  /-- `MFR_ID` -/
  mfrId          : ManufacturerId := [0x00, 0x20, 0x29]
  /-- `DEVICE_ID` -/
  deviceId       : Byte := 0x00
  /-- `NEG_CLEAR_ON_MISS` -/
  negClearOnMiss : Bool := false
  /-- `derive_name` -/
  nameRule       : NameRule := .pathItself
  /-- `SETTLE`, without effect: the model has no time (R86, R120, U7; notes/assumptions/20.md). -/
  settle         : Nat := 0
  /-- hardened variants asked for (R4); the spec's machine has none. -/
  hardened       : List HardenedVariant := []
  deriving DecidableEq, Repr

/-- A configuration is well formed (R8). -/
abbrev Config.WellFormed (c : Config) : Prop :=
  (1 ≤ c.numSlots ∧ c.numSlots ≤ 128) ∧ c.mfrId.length = 3 ∧ (∀ b ∈ c.mfrId, Byte.isData b) ∧ Byte.isData c.deviceId

/-- A well-formed configuration of the machine of this spec, without a hardened variant (R8, R4, R122). -/
abbrev Config.Legal (c : Config) : Prop := c.WellFormed ∧ c.hardened = []

/-- The configuration of `State.reset`: notes/assumptions/6.md. -/
def Config.default : Config := {}

/-- `UPLOAD_CAP`, fixed (R7). -/
def Config.uploadCap : Nat := 256

/-- `MATCH_LEN`, fixed (R7). -/
def Config.matchLen : Nat := 3

/-- `INQUIRY_FRAME`, fixed (R7, R53). -/
def Config.inquiryFrame : List Byte := [0xF0, 0x7E, 0x00, 0x06, 0x01, 0xF7]

/-- The sink's choice at one `TxWrite` (R30): `Ok`, or `IoError` with the first `emitted` bytes of the frame on the wire
(all of them where the frame is shorter). -/
inductive SinkAnswer
  | ok
  | ioError (emitted : Nat)
  deriving DecidableEq, Repr, Inhabited

/-- The storage's choice at one `StorageRead` (R31). -/
inductive StorageAnswer
  | ok (bytes : List Byte)
  | ioError
  deriving DecidableEq, Repr, Inhabited

/-- One turn of the schedule: which agent moves, and what it does (R6, R43). The model's own:
notes/assumptions/1.md (DESIGN CHOICE). -/
inductive Turn
  /-- the engine takes one step, if it has one -/
  | engine
  /-- the engine takes its steps until it has none -/
  | untilHold
  /-- the serial source: `RX_PUSH(b)` (R29) -/
  | rxPush (b : Byte)
  /-- the settle timer: `SETTLE_END` (R86) -/
  | settleEnd
  /-- the host: `REQUEST(q)` (R57) -/
  | request (q : Request)
  /-- the step that weak fairness promises (R137): the engine's, if it has one, else the settle timer's in the settle wait -/
  | fair
  deriving DecidableEq, Repr, Inhabited

/-- The turns that follow the listed ones, without end: a source may keep pushing for ever (R130), a hold may never be lifted
(R127). They come in finite blocks, and after each block comes a turn `fair`, so that every run is weakly fair (R137). The
model's own: notes/assumptions/1.md (DESIGN CHOICE). -/
inductive Forever
  /-- no turn of another agent: the machine moves by itself (notes/assumptions/2.md) -/
  | rest
  /-- this block, again and again -/
  | again (turns : List Turn)
  /-- the `k`-th uninterpreted sequence of blocks, from its place `n` on -/
  | free (k n : Nat)
  deriving DecidableEq, Repr

/-- The sink's answer at the `n`-th draw, where State lists none (R30, U2, U3). Free value: notes/assumptions/3.md. -/
opaque Config.freeSink : Nat → SinkAnswer

/-- The storage's answer at the `n`-th draw, where State lists none (R31, U4). Free value: notes/assumptions/4.md. -/
opaque Config.freeStorage : Nat → Path → StorageAnswer

/-- Output byte `i` of `DEC7` on an operand that is no u7 sequence, at the `n`-th draw (R79, U1). Free value:
notes/assumptions/5.md. -/
opaque Config.freeDec7 : Nat → Nat → Byte

/-- The block at place `n` of the `k`-th endless sequence of blocks of turns (R43). Free value: notes/assumptions/1.md. -/
opaque Config.freeTurns : Nat → Nat → List Turn

/-- The `k`-th uninterpreted `derive_name` (R7, U11). Free value: notes/assumptions/14.md. -/
opaque Config.freeName : Nat → Path → String

end Sys2Proof
end

