-- ==== Sys2Proof/Syntax.lean ====
section
/-! DEFINITION. The instructions: one constructor per row of spec/opcode_table.json, in the table's order. -/

namespace Sys2Proof

/-- The instructions of the engine on its four surfaces: host requests (R55, R56), inbound head bytes (R47), inbound
capture bytes (R48) and outbound frames (R51 to R53). The bit-vector operand of a head or capture class is the part of the
byte that the row's mask leaves free. -/
inductive Instr
  -- host requests
  | frTry
  | enc7 (bytes : List Byte)
  | dec7 (bytes : List Byte)
  | negDetect
  | cbQuery (slot : Nat)
  | cbSave
  | regAssign (slot : Nat) (path : Path)
  | regUploadOne (slot : Nat)
  | regUploadAll
  | regClear (slot : Nat)
  | rdSlot (slot : Nat)
  | rdSession
  | rdQueue
  | illegal (op : Byte)
  -- inbound head bytes
  | dropData (x : BitVec 7)
  | noteOff (channel : BitVec 4) (operands : ChanOperands)
  | noteOn (channel : BitVec 4) (operands : ChanOperands)
  | dropA0 (x : BitVec 4)
  | controlChange (channel : BitVec 4) (operands : ChanOperands)
  | dropC0 (x : BitVec 4)
  | dropD0 (x : BitVec 4)
  | dropE0 (x : BitVec 4)
  | sysexStart
  | dropF1
  | dropF2 (x : BitVec 1)
  | dropF4 (x : BitVec 2)
  | dropF8 (x : BitVec 3)
  -- inbound capture bytes
  | capEnd
  | capData (x : BitVec 7)
  | capStatus80 (x : BitVec 6)
  | capStatusC0 (x : BitVec 5)
  | capStatusE0 (x : BitVec 4)
  | capStatusF0 (x : BitVec 2)
  | capStatusF4 (x : BitVec 1)
  | capStatusF6
  | capStatusF8 (x : BitVec 3)
  -- outbound frames
  | cmdUploadSample (slot : Byte) (payload : List Byte)
  | cmdQuerySlot (slot : Byte)
  | cmdSaveProject
  | inquiry
  deriving DecidableEq, Repr

end Sys2Proof
end

