-- ==== Sys2Proof/WellFormed.lean ====
section
/-! DEFINITION. Which terms of `Instr` stand for an encoding of spec/opcode_table.json. The widths of the head and capture
operands are in their types; what is left is the illegal row and the outbound frames. -/

namespace Sys2Proof

/-- The op codes of R55. -/
def legalOps : List Byte :=
  [0x01, 0x02, 0x03, 0x10, 0x20, 0x21, 0x30, 0x31, 0x32, 0x33, 0x40, 0x41, 0x42]

/-- An encoded sample as `CMD_UPLOAD_SAMPLE` carries it: data bytes only, at most `UPLOAD_CAP` of them (R52, R94), and
not 7 above a multiple of 8, a length `floor(8n/7)` never has (R77). DEDUCED, notes/assumptions/23.md. -/
abbrev UploadPayload (p : List Byte) : Prop :=
  p.length ≤ Config.uploadCap ∧ (∀ b ∈ p, Byte.isData b) ∧ p.length % 8 ≠ 7

/-- A well-formed instruction. -/
abbrev Instr.WellFormed : Instr → Prop
  | .illegal op             => op ∉ legalOps
  | .cmdUploadSample slot p => Byte.isData slot ∧ UploadPayload p
  | .cmdQuerySlot slot      => Byte.isData slot
  | _                       => True

end Sys2Proof
end

