-- ==== Sys2Proof/Decode.lean ====
section
/-! DEFINITION. Decoding on the four surfaces of 30_encoding.md, total and rejecting by name, and the encoder written from
the same tables. -/

namespace Sys2Proof

/-- Why a text is no instruction of its surface. -/
inductive DecodeReject
  /-- no byte at the head or in capture -/
  | emptyStream
  /-- no row of the surface's table matches (never: R47 and R48 cover every byte) -/
  | noRow
  /-- an outbound frame without `F0 MFR_ID DEVICE_ID` at its start (R51) -/
  | badHeader
  /-- an outbound frame without a command byte, or with one CB never emits (R52, U23) -/
  | badCommand
  /-- an outbound frame without `F7` at its end (R51) -/
  | notTerminated
  /-- a payload the command never has (R52) -/
  | badPayload
  deriving DecidableEq, Repr

/-- The result of decoding. -/
inductive Decoded
  | ok (i : Instr)
  | reject (r : DecodeReject)
  deriving DecidableEq, Repr

/-- The instruction decoded, where there is one. -/
def Decoded.toOption : Decoded → Option Instr
  | .ok i     => some i
  | .reject _ => none

/-! ### Host requests (R54 to R56) -/

/-- The operation a request names; an operation reads only its own operands (R54), and every op code outside R55 is the
illegal row (R56). -/
def decodeRequest (q : Request) : Instr :=
  if q.op = 0x01 then .frTry
  else if q.op = 0x02 then .enc7 q.bytes
  else if q.op = 0x03 then .dec7 q.bytes
  else if q.op = 0x10 then .negDetect
  else if q.op = 0x20 then .cbQuery q.slot
  else if q.op = 0x21 then .cbSave
  else if q.op = 0x30 then .regAssign q.slot q.path
  else if q.op = 0x31 then .regUploadOne q.slot
  else if q.op = 0x32 then .regUploadAll
  else if q.op = 0x33 then .regClear q.slot
  else if q.op = 0x40 then .rdSlot q.slot
  else if q.op = 0x41 then .rdSession
  else if q.op = 0x42 then .rdQueue
  else .illegal q.op

/-! ### Inbound head bytes (R46, R47, R49, R50) -/

/-- The rows of R47. -/
inductive HeadClass
  | dropData | noteOff | noteOn | dropA0 | controlChange | dropC0 | dropD0 | dropE0
  | sysexStart | dropF1 | dropF2 | dropF4 | dropF8
  deriving DecidableEq, Repr

/-- The rows of R47 in the table's order. -/
def HeadClass.all : List HeadClass :=
  [.dropData, .noteOff, .noteOn, .dropA0, .controlChange, .dropC0, .dropD0, .dropE0,
   .sysexStart, .dropF1, .dropF2, .dropF4, .dropF8]

/-- The columns `match` and `mask` of R47. -/
def HeadClass.row : HeadClass → Byte × Byte
  | .dropData      => (0x00, 0x80)
  | .noteOff       => (0x80, 0xF0)
  | .noteOn        => (0x90, 0xF0)
  | .dropA0        => (0xA0, 0xF0)
  | .controlChange => (0xB0, 0xF0)
  | .dropC0        => (0xC0, 0xF0)
  | .dropD0        => (0xD0, 0xF0)
  | .dropE0        => (0xE0, 0xF0)
  | .sysexStart    => (0xF0, 0xFF)
  | .dropF1        => (0xF1, 0xFF)
  | .dropF2        => (0xF2, 0xFE)
  | .dropF4        => (0xF4, 0xFC)
  | .dropF8        => (0xF8, 0xF8)

/-- A head byte matches a row: `h & mask = match` (R47). -/
abbrev HeadClass.Matches (c : HeadClass) (h : Byte) : Prop := h &&& c.row.2 = c.row.1

/-- The first row that matches (R47). -/
def classifyHead (h : Byte) : Option HeadClass := HeadClass.all.find? (fun c => decide (c.Matches h))

/-- The operand bytes of a channel message whose bytes after the status byte are `rest` (R46, R67). -/
def chanOperands : List Byte → ChanOperands
  | b1 :: b2 :: _ => .complete b1 b2
  | _             => .incomplete

/-- The instruction of a row, for a head byte and the bytes after it (R49: `channel = s & 0x0F`). -/
def HeadClass.instr (h : Byte) (rest : List Byte) : HeadClass → Instr
  | .dropData      => .dropData (h.setWidth 7)
  | .noteOff       => .noteOff (h.setWidth 4) (chanOperands rest)
  | .noteOn        => .noteOn (h.setWidth 4) (chanOperands rest)
  | .dropA0        => .dropA0 (h.setWidth 4)
  | .controlChange => .controlChange (h.setWidth 4) (chanOperands rest)
  | .dropC0        => .dropC0 (h.setWidth 4)
  | .dropD0        => .dropD0 (h.setWidth 4)
  | .dropE0        => .dropE0 (h.setWidth 4)
  | .sysexStart    => .sysexStart
  | .dropF1        => .dropF1
  | .dropF2        => .dropF2 (h.setWidth 1)
  | .dropF4        => .dropF4 (h.setWidth 2)
  | .dropF8        => .dropF8 (h.setWidth 3)

/-- Decode the bytes at the head of the RX FIFO, outside a capture. -/
def decodeHead : List Byte → Decoded
  | []        => .reject .emptyStream
  | h :: rest =>
    match classifyHead h with
    | some c => .ok (c.instr h rest)
    | none   => .reject .noRow

/-! ### Inbound capture bytes (R48) -/

/-- The rows of R48. -/
inductive CaptureClass
  | capEnd | data | status80 | statusC0 | statusE0 | statusF0 | statusF4 | statusF6 | statusF8
  deriving DecidableEq, Repr

/-- The rows of R48 in the table's order. -/
def CaptureClass.all : List CaptureClass :=
  [.capEnd, .data, .status80, .statusC0, .statusE0, .statusF0, .statusF4, .statusF6, .statusF8]

/-- The columns `match` and `mask` of R48. -/
def CaptureClass.row : CaptureClass → Byte × Byte
  | .capEnd   => (0xF7, 0xFF)
  | .data     => (0x00, 0x80)
  | .status80 => (0x80, 0xC0)
  | .statusC0 => (0xC0, 0xE0)
  | .statusE0 => (0xE0, 0xF0)
  | .statusF0 => (0xF0, 0xFC)
  | .statusF4 => (0xF4, 0xFE)
  | .statusF6 => (0xF6, 0xFF)
  | .statusF8 => (0xF8, 0xF8)

/-- A byte in capture matches a row. -/
abbrev CaptureClass.Matches (c : CaptureClass) (b : Byte) : Prop := b &&& c.row.2 = c.row.1

/-- The first row that matches (R48). -/
def classifyCapture (b : Byte) : Option CaptureClass := CaptureClass.all.find? (fun c => decide (c.Matches b))

/-- The instruction of a row, for a byte read in capture. -/
def CaptureClass.instr (b : Byte) : CaptureClass → Instr
  | .capEnd   => .capEnd
  | .data     => .capData (b.setWidth 7)
  | .status80 => .capStatus80 (b.setWidth 6)
  | .statusC0 => .capStatusC0 (b.setWidth 5)
  | .statusE0 => .capStatusE0 (b.setWidth 4)
  | .statusF0 => .capStatusF0 (b.setWidth 2)
  | .statusF4 => .capStatusF4 (b.setWidth 1)
  | .statusF6 => .capStatusF6
  | .statusF8 => .capStatusF8 (b.setWidth 3)

/-- Decode the byte at the head of the RX FIFO, in a capture. -/
def decodeCapture : List Byte → Decoded
  | []     => .reject .emptyStream
  | b :: _ =>
    match classifyCapture b with
    | some c => .ok (c.instr b)
    | none   => .reject .noRow

/-! ### Outbound frames (R51 to R53) -/

/-- The bytes of a command frame before its command byte: `F0`, `MFR_ID`, `DEVICE_ID` (R51). -/
def frameHeader (c : Config) : List Byte := 0xF0 :: c.mfrId ++ [c.deviceId]

/-- A command frame: header, command byte, payload, `F7` (R51, R91: `CbFrame`). -/
def cbFrame (c : Config) (cmd : Byte) (payload : List Byte) : List Byte :=
  frameHeader c ++ cmd :: payload ++ [0xF7]

/-- Decode the payload of a command (R52). -/
def decodeCommand (cmd : Byte) (payload : List Byte) : Decoded :=
  if cmd = 0x01 then
    match payload with
    | slot :: p => if Byte.isData slot ∧ UploadPayload p then .ok (.cmdUploadSample slot p) else .reject .badPayload
    | []        => .reject .badPayload
  else if cmd = 0x02 then
    match payload with
    | [slot] => if Byte.isData slot then .ok (.cmdQuerySlot slot) else .reject .badPayload
    | _      => .reject .badPayload
  else if cmd = 0x03 then
    match payload with
    | [] => .ok .cmdSaveProject
    | _  => .reject .badPayload
  else .reject .badCommand

/-- Decode an outbound frame: the inquiry (R53), or a command frame (R51). -/
def decodeFrame (c : Config) (bs : List Byte) : Decoded :=
  if bs = Config.inquiryFrame then .ok .inquiry
  else if bs.take (frameHeader c).length ≠ frameHeader c then .reject .badHeader
  else
    match bs.drop (frameHeader c).length with
    | []          => .reject .badCommand
    | cmd :: rest =>
      if rest.getLast? = some 0xF7 then decodeCommand cmd rest.dropLast else .reject .notTerminated

/-! ### All surfaces -/

/-- The decoder: total on any text of any surface. -/
def decode (c : Config) : Encoded → Decoded
  | .request q  => .ok (decodeRequest q)
  | .head bs    => decodeHead bs
  | .capture bs => decodeCapture bs
  | .frame bs   => decodeFrame c bs

/-- A byte with a row's fixed bits and the free bits `x` (R47, R48). -/
def rowByte {n : Nat} (fixed : Byte) (x : BitVec n) : Byte := fixed ||| x.setWidth 8

/-- A channel message: status byte, and its operand bytes where they are there (R46, R49). -/
def chanMessage (fixed : Byte) (channel : BitVec 4) : ChanOperands → List Byte
  | .complete b1 b2 => [rowByte fixed channel, b1, b2]
  | .incomplete     => [rowByte fixed channel]

/-- A request with op code `op` and, for the operands the operation ignores, zero and nothing. -/
def requestOf (op : Byte) (slot : Nat := 0) (path : Path := "") (bytes : List Byte := []) : Request :=
  { op := op, slot := slot, path := path, bytes := bytes }

/-- The encoder, from R47, R48, R51 to R53 and R55. -/
def encode (c : Config) : Instr → Encoded
  | .frTry               => .request (requestOf 0x01)
  | .enc7 bs             => .request (requestOf 0x02 (bytes := bs))
  | .dec7 bs             => .request (requestOf 0x03 (bytes := bs))
  | .negDetect           => .request (requestOf 0x10)
  | .cbQuery i           => .request (requestOf 0x20 (slot := i))
  | .cbSave              => .request (requestOf 0x21)
  | .regAssign i p       => .request (requestOf 0x30 (slot := i) (path := p))
  | .regUploadOne i      => .request (requestOf 0x31 (slot := i))
  | .regUploadAll        => .request (requestOf 0x32)
  | .regClear i          => .request (requestOf 0x33 (slot := i))
  | .rdSlot i            => .request (requestOf 0x40 (slot := i))
  | .rdSession           => .request (requestOf 0x41)
  | .rdQueue             => .request (requestOf 0x42)
  | .illegal op          => .request (requestOf op)
  | .dropData x          => .head [rowByte 0x00 x]
  | .noteOff ch o        => .head (chanMessage 0x80 ch o)
  | .noteOn ch o         => .head (chanMessage 0x90 ch o)
  | .dropA0 x            => .head [rowByte 0xA0 x]
  | .controlChange ch o  => .head (chanMessage 0xB0 ch o)
  | .dropC0 x            => .head [rowByte 0xC0 x]
  | .dropD0 x            => .head [rowByte 0xD0 x]
  | .dropE0 x            => .head [rowByte 0xE0 x]
  | .sysexStart          => .head [0xF0]
  | .dropF1              => .head [0xF1]
  | .dropF2 x            => .head [rowByte 0xF2 x]
  | .dropF4 x            => .head [rowByte 0xF4 x]
  | .dropF8 x            => .head [rowByte 0xF8 x]
  | .capEnd              => .capture [0xF7]
  | .capData x           => .capture [rowByte 0x00 x]
  | .capStatus80 x       => .capture [rowByte 0x80 x]
  | .capStatusC0 x       => .capture [rowByte 0xC0 x]
  | .capStatusE0 x       => .capture [rowByte 0xE0 x]
  | .capStatusF0 x       => .capture [rowByte 0xF0 x]
  | .capStatusF4 x       => .capture [rowByte 0xF4 x]
  | .capStatusF6         => .capture [0xF6]
  | .capStatusF8 x       => .capture [rowByte 0xF8 x]
  | .cmdUploadSample b p => .frame (cbFrame c 0x01 (b :: p))
  | .cmdQuerySlot b      => .frame (cbFrame c 0x02 [b])
  | .cmdSaveProject      => .frame (cbFrame c 0x03 [])
  | .inquiry             => .frame Config.inquiryFrame

/-- The surface of an instruction: the `format` column of its row. -/
def Instr.surface : Instr → Surface
  | .frTry | .enc7 _ | .dec7 _ | .negDetect | .cbQuery _ | .cbSave | .regAssign _ _ | .regUploadOne _ | .regUploadAll
  | .regClear _ | .rdSlot _ | .rdSession | .rdQueue | .illegal _ => .hostRequest
  | .dropData _ | .noteOff _ _ | .noteOn _ _ | .dropA0 _ | .controlChange _ _ | .dropC0 _ | .dropD0 _ | .dropE0 _
  | .sysexStart | .dropF1 | .dropF2 _ | .dropF4 _ | .dropF8 _ => .inboundHead
  | .capEnd | .capData _ | .capStatus80 _ | .capStatusC0 _ | .capStatusE0 _ | .capStatusF0 _ | .capStatusF4 _
  | .capStatusF6 | .capStatusF8 _ => .inboundCapture
  | .cmdUploadSample _ _ | .cmdQuerySlot _ | .cmdSaveProject | .inquiry => .outboundFrame

/-! ### Words as the opcode table numbers them

The table's rows of the host, head and capture surfaces all match on ONE byte, so one byte is an instruction of up to three
surfaces (0x00 is an illegal op code, a dropped head byte and a stored capture byte). The engine always knows its surface;
a bare word does not say it. DESIGN CHOICE, notes/assumptions/11.md: the row with the most fixed bits is taken, and of
equal ones the host request first, then the head byte. -/

/-- The surface a bare byte is read on: a listed op code; then a byte a capture row fixes more of than every head row
(0xF4 to 0xF7); then a head byte. -/
def surfaceOfByte (b : Byte) : Surface :=
  if b ∈ legalOps then .hostRequest
  else if 0xF4#8 ≤ b ∧ b ≤ 0xF7#8 then .inboundCapture
  else .inboundHead

/-- The `k` bytes of a number `w`, the least significant byte first: the first byte on the wire is the lowest byte of the
number. DESIGN CHOICE, notes/assumptions/24.md: the engine has no integer of more than one byte (R38), and the spec packs no
frame into a number. -/
def bytesOfNat : (k w : Nat) → List Byte
  | 0, _     => []
  | k + 1, w => BitVec.ofNat 8 w :: bytesOfNat k (w / 256)

/-- The text of a bare word: one byte and zero operands (a channel message has two zero operand bytes), or a whole frame
(its bytes in the order of notes/assumptions/24.md, DESIGN CHOICE). -/
def tableText (nbits w : Nat) : Encoded :=
  let b : Byte := BitVec.ofNat 8 w
  if nbits ≤ 8 then
    match surfaceOfByte b with
    | .hostRequest    => .request (requestOf b)
    | .inboundCapture => .capture [b]
    | _               => .head [b, 0x00, 0x00]
  else .frame (bytesOfNat (nbits / 8) w)

/-- The instruction the decoder reads from a word of the opcode table. -/
def decodeTableWord (nbits w : Nat) : Option Instr := (decode Config.default (tableText nbits w)).toOption

end Sys2Proof
end

