-- ==== Sys2Proof/Machine/State.lean ====
section
/-! DEFINITION. The state of the engine, exactly the elements of 10_state.md rule R15, the fixed configuration (R7), and the
model's own fields that say what the environment does next (20_memory.md rule R43). -/

namespace Sys2Proof.Machine

/-- `S.eng` (R18). -/
inductive EngState
  | idle
  | busy
  deriving DecidableEq, Repr

/-- `S.fr_state` (R19). -/
inductive FrState
  | idle
  | capture
  deriving DecidableEq, Repr

/-- `S.ng_phase` (R20). -/
inductive NgPhase
  | idle
  | settle
  | drain
  | scan
  deriving DecidableEq, Repr

/-- The lifecycle of a slot (R24, R99). -/
inductive SlotStatus
  | empty
  | loaded
  | uploaded
  deriving DecidableEq, Repr

/-- A sample slot (R24). -/
structure Slot where
  name   : Option String
  data   : Option (List Byte)
  size   : Nat
  status : SlotStatus
  deriving DecidableEq, Repr

/-- A slot at reset and after `REG_CLEAR` (R15, R104). -/
def Slot.cleared : Slot := { name := none, data := none, size := 0, status := .empty }

/-- A MIDI message (R13). -/
inductive MidiMessage
  | noteOn (channel : BitVec 4) (note velocity : Byte)
  | noteOff (channel : BitVec 4) (note velocity : Byte)
  | controlChange (channel : BitVec 4) (controller value : Byte)
  | sysEx (payload : List Byte)
  deriving DecidableEq, Repr

/-- The sink's answer to a write, as the engine sees it (R30). -/
inductive IoAnswer
  | ok
  | ioError
  deriving DecidableEq, Repr

/-- A record of `S.tx` (R30). -/
structure TxRecord where
  frame   : List Byte
  answer  : IoAnswer
  emitted : List Byte
  deriving DecidableEq, Repr

/-- The result codes (R111). -/
inductive ResultCode
  | ok
  | noMessage
  | notFound
  | declinedNotConnected
  | declinedRange
  | declinedEmpty
  | ioError
  | storageError
  | illegalOp
  deriving DecidableEq, Repr

/-- The value of a response (R58). -/
inductive ResponseValue
  | none
  | message (m : MidiMessage)
  | bytes (bs : List Byte)
  | slot (r : Slot)
  | session (connected : Bool) (matched : Option ManufacturerId)
  | queue (q : List Nat)
  deriving DecidableEq, Repr

/-- A response `(code, value)` (R32). -/
structure Response where
  code  : ResultCode
  value : ResponseValue
  deriving DecidableEq, Repr

/-- The faults of a step: none. "The engine's own behaviour has no fault" (R122; R117, R118). -/
inductive Fault
  deriving DecidableEq, Repr

/-- The refusals of a step. -/
inductive Refusal
  /-- Raised by `exec` for an instruction the model has no meaning for (none is left). Safe. -/
  | notModelled (mnemonic : String)
  /-- Raised by `step` for a configuration that is not well formed (R8: "A model refuses a configuration that is not well
  formed"). Safe. -/
  | illFormedConfig
  /-- Raised by `step` for a configuration that asks for a hardened variant (R4, R122, U14). Safe. -/
  | hardenedVariant
  deriving DecidableEq, Repr

/-- The state of the machine. -/
structure State where
  /-- the configuration, written by no operation (R7); in State by notes/assumptions/6.md (DESIGN CHOICE) -/
  cfg          : Config
  -- the elements of R15
  /-- `S.eng` -/
  eng          : EngState
  /-- `S.cur` -/
  cur          : Option Request
  /-- `S.fr_state` -/
  frState      : FrState
  /-- `S.fr_buf` -/
  frBuf        : List Byte
  /-- `S.ng_phase` -/
  ngPhase      : NgPhase
  /-- `S.ng_collected` -/
  ngCollected  : List (List Byte)
  /-- `S.up_active` -/
  upActive     : Bool
  /-- `S.connected` -/
  connected    : Bool
  /-- `S.matched` -/
  matched      : Option ManufacturerId
  /-- `slot[0] .. slot[NUM_SLOTS-1]` -/
  slots        : List Slot
  /-- `S.queue` -/
  queue        : List Nat
  /-- `S.rx` -/
  rx           : List Byte
  /-- `S.tx` -/
  tx           : List TxRecord
  /-- `S.resp` -/
  resp         : List Response
  -- the model's own fields (notes/assumptions/16.md)
  /-- the local `r` of R100 between the two steps of `REG_ASSIGN` (notes/assumptions/8.md) -/
  storageReply : Option StorageAnswer
  /-- the turns to come (notes/assumptions/1.md) -/
  schedule     : List Turn
  /-- the turns that follow `schedule`, without end (R130, R137; notes/assumptions/1.md) -/
  forever      : Forever
  /-- the sink's next answers (notes/assumptions/3.md) -/
  sinkNext     : List SinkAnswer
  /-- the storage's next answers (notes/assumptions/4.md) -/
  storageNext  : List StorageAnswer
  /-- how many free values were drawn -/
  draws        : Nat
  deriving DecidableEq, Repr

/-- Reset (R123) with configuration `c` and RX launch content `rx`, "any byte sequence, empty included". -/
def State.resetWith (c : Config) (rx : List Byte) : State where
  cfg          := c
  eng          := .idle
  cur          := none
  frState      := .idle
  frBuf        := []
  ngPhase      := .idle
  ngCollected  := []
  upActive     := false
  connected    := false
  matched      := none
  slots        := List.replicate c.numSlots Slot.cleared
  queue        := []
  rx           := rx
  tx           := []
  resp         := []
  storageReply := none
  schedule     := []
  forever      := .rest
  sinkNext     := []
  storageNext  := []
  draws        := 0

/-- The machine right after reset (R123). The configuration is that of notes/assumptions/6.md, the RX launch content that of
notes/assumptions/7.md (both DESIGN CHOICE, unsafe); `State.resetWith` has neither choice. -/
def State.reset : State := State.resetWith Config.default []

end Sys2Proof.Machine
end

