-- ==== Sys2Proof/Machine/Flags.lean ====
section
/-! DEFINITION. The one flag of the engine, `S.connected` with `S.matched` (R22, R23), and the numeric values of the result
codes (R111). The engine has no condition code and keeps no sticky error bit (R23). -/

namespace Sys2Proof.Machine

/-- A scan that matched: `S.connected <- true`, `S.matched <- MFR_ID` (R88). -/
def State.setConnected (s : State) : State := { s with connected := true, matched := some s.cfg.mfrId }

/-- A scan without a match: `S.connected <- false` only when `NEG_CLEAR_ON_MISS`; `S.matched` unchanged (R88). -/
def State.missConnected (s : State) : State :=
  if s.cfg.negClearOnMiss then { s with connected := false } else s

/-- The code of a write's answer: `Ok` gives `OK`, `IoError` gives `IO_ERROR` (R93). -/
def IoAnswer.code : IoAnswer → ResultCode
  | .ok      => .ok
  | .ioError => .ioError

/-- The numeric value of a result code (R111). -/
def ResultCode.value : ResultCode → Byte
  | .ok                   => 0x00
  | .noMessage            => 0x01
  | .notFound             => 0x02
  | .declinedNotConnected => 0x10
  | .declinedRange        => 0x11
  | .declinedEmpty        => 0x12
  | .ioError              => 0x20
  | .storageError         => 0x21
  | .illegalOp            => 0x30

/-- The classes of §7 a result code can stand for (R111). -/
inductive ErrorClass
  /-- (a) transport errors -/
  | transport
  /-- (b) protocol errors -/
  | protocol
  /-- (c) precondition violations -/
  | precondition
  deriving DecidableEq, Repr

/-- The §7 class of a code (R111); `NO_MESSAGE` is class (b) only when a byte was dropped, which `dropped` says. -/
def ResultCode.errorClass (dropped : Bool) : ResultCode → Option ErrorClass
  | .ok                   => none
  | .noMessage            => if dropped then some .protocol else none
  | .notFound             => none
  | .declinedNotConnected => some .precondition
  | .declinedRange        => some .precondition
  | .declinedEmpty        => some .precondition
  | .ioError              => some .transport
  | .storageError         => some .transport
  | .illegalOp            => some .precondition

end Sys2Proof.Machine
end

