-- ==== Sys2Proof/Machine/Operands.lean ====
section
/-! DEFINITION. The operand forms of the operations: slot indices (R24, R116), the operand bytes of a channel message (R49),
a slot's usable data (R101), the op code of the current request (R54, R55). -/

namespace Sys2Proof.Machine

/-! ### Op codes (R55) -/

def opFrTry : Byte := 0x01
def opNegDetect : Byte := 0x10
def opRegAssign : Byte := 0x30
def opRegUploadOne : Byte := 0x31
def opRegUploadAll : Byte := 0x32

/-- `S.cur.op`, where a request is in progress. -/
def State.curOp (s : State) : Option Byte := s.cur.map Request.op

/-! ### Slot operands -/

/-- A slot index is in range, `0 <= slot < NUM_SLOTS` (R24). -/
abbrev State.InRange (s : State) (i : Nat) : Prop := i < s.cfg.numSlots

/-- `slot[i]`. An index outside the file reads as a cleared slot; it is never read (R24). -/
def State.slotAt (s : State) (i : Nat) : Slot := s.slots.getD i Slot.cleared

/-- `slot[i] <- v`, all four fields. -/
def State.setSlot (i : Nat) (v : Slot) (s : State) : State := { s with slots := s.slots.set i v }

/-- `slot[i].status <- st`. -/
def State.setStatus (i : Nat) (st : SlotStatus) (s : State) : State := s.setSlot i { s.slotAt i with status := st }

/-- `slot & 0xFF`, bits 7..0 of the index (R12, R52). -/
def slotByte (i : Nat) : Byte := BitVec.ofNat 8 i

/-- The data an upload sends: none where the slot is `Empty`, has no data, or data of length 0 (R101). -/
def Slot.usable (r : Slot) : Option (List Byte) :=
  match r.status, r.data with
  | .empty, _       => none
  | _, none         => none
  | _, some []      => none
  | _, some (b :: d) => some (b :: d)

/-! ### Messages (R49) -/

/-- The kinds of channel voice message the framer delivers (R47). -/
inductive ChanKind
  | noteOff
  | noteOn
  | controlChange
  deriving DecidableEq, Repr

/-- Operand assembly of a channel message: the bytes are taken as they are (R49, R68), and a `NOTE_ON` with velocity 0 stays
one (R69). -/
def chanMessageOf (k : ChanKind) (channel : BitVec 4) (b1 b2 : Byte) : MidiMessage :=
  match k with
  | .noteOff       => .noteOff channel b1 b2
  | .noteOn        => .noteOn channel b1 b2
  | .controlChange => .controlChange channel b1 b2

end Sys2Proof.Machine
end

