-- ==== Sys2Proof/Machine/Ops.lean ====
section
/-! DEFINITION. The shared operations: `finish`, the RX FIFO, the TX port, the storage port (R11). There is no trap and no
trap return (R117): every error is a `finish` with a result code (R111), so `finish` stands where another machine would take
an exception. -/

namespace Sys2Proof.Machine

/-- `finish(code, value)`: the response is appended, `S.cur <- none`, `S.eng <- IDLE` (R11, R18). -/
def State.finish (code : ResultCode) (value : ResponseValue) (s : State) : State :=
  { s with resp := s.resp ++ [{ code := code, value := value }], cur := none, eng := .idle }

/-! ### The RX FIFO (R28, R29, R42) -/

/-- `RxPop()` `k` times: the `k` head bytes are removed. -/
def State.rxDrop (k : Nat) (s : State) : State := { s with rx := s.rx.drop k }

/-- `RX_PUSH(b)` (R29). -/
def State.rxPush (b : Byte) (s : State) : State := { s with rx := s.rx ++ [b] }

/-! ### The TX port (R30) -/

/-- What the sink chooses at the next `TxWrite`: the head of its list, else a free value (notes/assumptions/3.md). -/
def State.sinkAnswer (s : State) : SinkAnswer :=
  match s.sinkNext with
  | a :: _ => a
  | []     => Config.freeSink s.draws

/-- The state after the sink has chosen: only the model's own fields change. -/
def State.sinkTaken (s : State) : State :=
  match s.sinkNext with
  | _ :: r => { s with sinkNext := r }
  | []     => { s with draws := s.draws + 1 }

/-- The engine's view of the sink's choice. -/
def sinkIo : SinkAnswer → IoAnswer
  | .ok        => .ok
  | .ioError _ => .ioError

/-- The bytes of `frame` that reach the wire: all on `Ok`, some first ones on `IoError` (R30). -/
def sinkEmitted (frame : List Byte) : SinkAnswer → List Byte
  | .ok        => frame
  | .ioError k => frame.take k

/-- The record of a write of `frame` (R30). -/
def txRecord (frame : List Byte) (a : SinkAnswer) : TxRecord :=
  { frame := frame, answer := sinkIo a, emitted := sinkEmitted frame a }

/-- One more record on the TX port. -/
def State.txPush (r : TxRecord) (s : State) : State := { s with tx := s.tx ++ [r] }

/-- `TxWrite(frame)`: one record for the whole frame, and the answer (R30, R41). -/
def State.txWrite (frame : List Byte) (s : State) : IoAnswer × State :=
  (sinkIo s.sinkAnswer, s.sinkTaken.txPush (txRecord frame s.sinkAnswer))

/-! ### The storage port (R31) -/

/-- What the storage chooses at the next `StorageRead`: the head of its list, else a free value (notes/assumptions/4.md). -/
def State.storageAnswer (path : Path) (s : State) : StorageAnswer :=
  match s.storageNext with
  | a :: _ => a
  | []     => Config.freeStorage s.draws path

/-- The state after the storage has chosen: only the model's own fields change. -/
def State.storageTaken (s : State) : State :=
  match s.storageNext with
  | _ :: r => { s with storageNext := r }
  | []     => { s with draws := s.draws + 1 }

/-- `StorageRead(path)`; no side effect on the engine (R42). -/
def State.storageRead (path : Path) (s : State) : StorageAnswer × State := (s.storageAnswer path, s.storageTaken)

/-! ### Free bytes (R79) -/

/-- `n` bytes of any value, and the state after the draw. -/
def State.drawBytes (n : Nat) (s : State) : List Byte × State :=
  ((List.range n).map (Config.freeDec7 s.draws), { s with draws := s.draws + 1 })

/-! ### Names (R7, R100) -/

/-- `derive_name(path)` (R7). -/
def deriveName : NameRule → Path → String
  | .pathItself, p       => p
  | .implementation k, p => Config.freeName k p

/-! ### Holds -/

/-- A hold: the engine has no enabled step (R11), and the state stays as it is. DESIGN CHOICE, notes/assumptions/15.md. -/
def State.hold (s : State) : State := s

end Sys2Proof.Machine
end

