-- ==== Sys2Proof/Machine/Framer.lean ====
section
/-! DEFINITION. FR, the message framer (40_framer.md): `FrStep` as R61 writes it, `FR_TRY`, and the meaning of every inbound
head byte (R47) and capture byte (R48). -/

namespace Sys2Proof.Machine

/-- To whom a result of `FrStep` is handed (R75): the response of `FR_TRY`, or the drain of `NEG_DETECT`. -/
inductive FrCaller
  | host
  | drain
  | nobody
  deriving DecidableEq, Repr

/-- The caller of the framer in a state. With any other request, or none, nobody calls it: notes/assumptions/17.md. -/
def State.frCaller (s : State) : FrCaller :=
  if s.curOp = some opFrTry then .host
  else if s.curOp = some opNegDetect then .drain
  else .nobody

/-- The end of `FR_TRY`: `OK` with the message, or `NO_MESSAGE` (R62). -/
def frTryReturn (m : Option MidiMessage) (s : State) : State :=
  match m with
  | some msg => s.finish .ok (.message msg)
  | none     => s.finish .noMessage .none

/-- The end of one `FrStep` of the drain: no byte removed ends the drain, a SysEx payload is collected, every other result
is discarded (R84, R87). -/
def drainReturn (m : Option MidiMessage) (n : Nat) (s : State) : State :=
  if n = 0 then { s with ngPhase := .scan }
  else
    match m with
    | some (.sysEx p) => { s with ngCollected := s.ngCollected ++ [p] }
    | _               => s

/-- `FrStep` returns `(m, n)` to its caller. -/
def frReturn (m : Option MidiMessage) (n : Nat) (s : State) : State :=
  match s.frCaller with
  | .host   => frTryReturn m s
  | .drain  => drainReturn m n s
  | .nobody => s

/-! ### The effects of FrStep -/

/-- A dropped head byte is removed alone (R70). -/
def frDrop (s : State) : State := frReturn none 1 (s.rxDrop 1)

/-- A complete channel message is removed and returned (R64 to R66). -/
def frTake (m : MidiMessage) (s : State) : State := frReturn (some m) 3 (s.rxDrop 3)

/-- An empty FIFO or an incomplete channel message: nothing is removed (R63, R67). -/
def frNothing (s : State) : State := frReturn none 0 s

/-- A SysEx frame starts (R71). -/
def frStart (s : State) : State := { s.rxDrop 1 with frState := .capture, frBuf := [] }

/-- A byte is stored in the capture buffer (R72). -/
def frStore (b : Byte) (s : State) : State := { s.rxDrop 1 with frBuf := s.frBuf ++ [b] }

/-- The frame ends (R73). -/
def frEnd (s : State) : State :=
  frReturn (some (.sysEx s.frBuf)) (2 + s.frBuf.length) { s.rxDrop 1 with frState := .idle, frBuf := [] }

/-- A channel message of kind `k`, complete (R64 to R66) or incomplete (R67). -/
def frChannel (k : ChanKind) (channel : BitVec 4) (o : ChanOperands) (s : State) : State :=
  match o with
  | .complete b1 b2 => frTake (chanMessageOf k channel b1 b2) s
  | .incomplete     => frNothing s

/-- `FrStep`, one atomic step of it, as the pseudocode of R61 writes it. -/
def frStep (s : State) : State :=
  match s.frState with
  | .idle =>
    match s.rx with
    | []        => frNothing s
    | h :: rest =>
      if h = 0xF0 then frStart s
      else if h &&& 0xF0 = 0x80 ∨ h &&& 0xF0 = 0x90 ∨ h &&& 0xF0 = 0xB0 then
        match rest with
        | b1 :: b2 :: _ =>
          let c : BitVec 4 := (h &&& 0x0F).setWidth 4
          if h &&& 0xF0 = 0x90 then frTake (.noteOn c b1 b2) s
          else if h &&& 0xF0 = 0x80 then frTake (.noteOff c b1 b2) s
          else frTake (.controlChange c b1 b2) s
        | _ => frNothing s
      else frDrop s
  | .capture =>
    match s.rx with
    | []     => s.hold
    | b :: _ => if b = 0xF7 then frEnd s else frStore b s

/-! ### Meanings -/

/-- `FR_TRY` (R62). -/
def execFrTry (s : State) : Host.Outcome State Fault Refusal := .next (frStep s)

/-- `DROP_DATA`, 0x00..0x7F (R70). -/
def execDropData (_x : BitVec 7) (s : State) : Host.Outcome State Fault Refusal := .next (frDrop s)

/-- `NOTE_OFF` (R65, R67). -/
def execNoteOff (channel : BitVec 4) (o : ChanOperands) (s : State) : Host.Outcome State Fault Refusal :=
  .next (frChannel .noteOff channel o s)

/-- `NOTE_ON` (R64, R67). -/
def execNoteOn (channel : BitVec 4) (o : ChanOperands) (s : State) : Host.Outcome State Fault Refusal :=
  .next (frChannel .noteOn channel o s)

/-- `DROP_A0` (R70). -/
def execDropA0 (_x : BitVec 4) (s : State) : Host.Outcome State Fault Refusal := .next (frDrop s)

/-- `CONTROL_CHANGE` (R66, R67). -/
def execControlChange (channel : BitVec 4) (o : ChanOperands) (s : State) : Host.Outcome State Fault Refusal :=
  .next (frChannel .controlChange channel o s)

/-- `DROP_C0` (R70). -/
def execDropC0 (_x : BitVec 4) (s : State) : Host.Outcome State Fault Refusal := .next (frDrop s)

/-- `DROP_D0` (R70). -/
def execDropD0 (_x : BitVec 4) (s : State) : Host.Outcome State Fault Refusal := .next (frDrop s)

/-- `DROP_E0` (R70). -/
def execDropE0 (_x : BitVec 4) (s : State) : Host.Outcome State Fault Refusal := .next (frDrop s)

/-- `SYSEX_START`, 0xF0 (R71). -/
def execSysexStart (s : State) : Host.Outcome State Fault Refusal := .next (frStart s)

/-- `DROP_F1` (R70). -/
def execDropF1 (s : State) : Host.Outcome State Fault Refusal := .next (frDrop s)

/-- `DROP_F2` (R70). -/
def execDropF2 (_x : BitVec 1) (s : State) : Host.Outcome State Fault Refusal := .next (frDrop s)

/-- `DROP_F4` (R70). -/
def execDropF4 (_x : BitVec 2) (s : State) : Host.Outcome State Fault Refusal := .next (frDrop s)

/-- `DROP_F8` (R70). -/
def execDropF8 (_x : BitVec 3) (s : State) : Host.Outcome State Fault Refusal := .next (frDrop s)

/-- `CAP_END`, 0xF7 (R73). -/
def execCapEnd (s : State) : Host.Outcome State Fault Refusal := .next (frEnd s)

/-- `CAP_DATA` (R72). -/
def execCapData (x : BitVec 7) (s : State) : Host.Outcome State Fault Refusal := .next (frStore (rowByte 0x00 x) s)

/-- `CAP_STATUS_80` (R72). -/
def execCapStatus80 (x : BitVec 6) (s : State) : Host.Outcome State Fault Refusal := .next (frStore (rowByte 0x80 x) s)

/-- `CAP_STATUS_C0` (R72). -/
def execCapStatusC0 (x : BitVec 5) (s : State) : Host.Outcome State Fault Refusal := .next (frStore (rowByte 0xC0 x) s)

/-- `CAP_STATUS_E0` (R72). -/
def execCapStatusE0 (x : BitVec 4) (s : State) : Host.Outcome State Fault Refusal := .next (frStore (rowByte 0xE0 x) s)

/-- `CAP_STATUS_F0` (R72). -/
def execCapStatusF0 (x : BitVec 2) (s : State) : Host.Outcome State Fault Refusal := .next (frStore (rowByte 0xF0 x) s)

/-- `CAP_STATUS_F4` (R72). -/
def execCapStatusF4 (x : BitVec 1) (s : State) : Host.Outcome State Fault Refusal := .next (frStore (rowByte 0xF4 x) s)

/-- `CAP_STATUS_F6` (R72). -/
def execCapStatusF6 (s : State) : Host.Outcome State Fault Refusal := .next (frStore 0xF6 s)

/-- `CAP_STATUS_F8` (R72). -/
def execCapStatusF8 (x : BitVec 3) (s : State) : Host.Outcome State Fault Refusal := .next (frStore (rowByte 0xF8 x) s)

end Sys2Proof.Machine
end

