-- ==== Sys2Proof/Machine/Negotiator.lean ====
section
/-! DEFINITION. NG, the device identity negotiator (42_negotiator.md): the phases send, settle, drain and scan of
`NEG_DETECT`, and the meaning of the inquiry frame (R53). -/

namespace Sys2Proof.Machine

/-- Send (R85): the inquiry is written; on `IoError` the operation ends with `IO_ERROR`, else the settle wait begins. -/
def ngSend (s : State) : State :=
  let r := s.txWrite Config.inquiryFrame
  match r.1 with
  | .ok      => { r.2 with ngPhase := .settle }
  | .ioError => r.2.finish .ioError .none

/-- `SETTLE_END`, the settle timer's step (R86). -/
def settleEnd (s : State) : State := { s with ngPhase := .drain }

/-- A payload matches when it has at least 3 bytes and its first 3 are `MFR_ID` (R88). -/
abbrev PayloadMatches (c : Config) (p : List Byte) : Prop :=
  Config.matchLen ≤ p.length ∧ p.take Config.matchLen = c.mfrId

/-- The collected payloads are dropped and the phase is `NG_IDLE` again, whatever the scan found (R88). -/
def ngReset (s : State) : State := { s with ngCollected := [], ngPhase := .idle }

/-- Scan (R88): one step over the collected payloads. -/
def ngScan (s : State) : State :=
  if ∃ p ∈ s.ngCollected, PayloadMatches s.cfg p then (ngReset s.setConnected).finish .ok .none
  else (ngReset s.missConnected).finish .notFound .none

/-- One step of `NEG_DETECT()` (R84), by its phase. -/
def negDetect (s : State) : State :=
  match s.ngPhase with
  | .idle   => ngSend s
  | .settle => s.hold
  | .drain  => frStep s
  | .scan   => ngScan s

/-! ### Meanings -/

/-- `NEG_DETECT` (R84): the step of its phase. -/
def execNegDetect (s : State) : Host.Outcome State Fault Refusal := .next (negDetect s)

/-- `INQUIRY` (R53, R85): the inquiry frame is sent for the current `NEG_DETECT`. notes/assumptions/12.md. -/
def execInquiry (s : State) : Host.Outcome State Fault Refusal := .next (ngSend s)

end Sys2Proof.Machine
end

