-- ==== Sys2Proof/Machine/Codec.lean ====
section
/-! DEFINITION. C7, the SysEx 7-bit codec (41_codec.md): the loops of R76 and R78 as one regrouping of bits, the bit
streams of R10, and the operations `ENC7` and `DEC7`. -/

namespace Sys2Proof.Machine

/-- The inner loop of R76 and R78, `while nbits >= w: nbits <- nbits - w; out.append((acc >> nbits) & mask)`, as the bytes
it appends and the `nbits` it leaves. `fuel` bounds its turns; `nbits` turns are enough. -/
def emitGroups (w acc : Nat) : (fuel nbits : Nat) → List Byte × Nat
  | 0, nbits => ([], nbits)
  | fuel + 1, nbits =>
    if w ≤ nbits then
      let r := emitGroups w acc fuel (nbits - w)
      (BitVec.ofNat 8 ((acc >>> (nbits - w)) &&& (2 ^ w - 1)) :: r.1, r.2)
    else ([], nbits)

/-- The outer loop of R76 and R78: each input byte adds its low `win` bits to `acc`, an unbounded natural, and every whole
group of `wout` bits is output; the last bits are dropped. -/
def regroup (win wout : Nat) : (acc nbits : Nat) → List Byte → List Byte
  | _, _, []         => []
  | acc, nbits, b :: d =>
    let acc' := (acc <<< win) ||| (b.toNat % 2 ^ win)
    let r := emitGroups wout acc' (nbits + win) (nbits + win)
    r.1 ++ regroup win wout acc' r.2 d

/-- `ENC7(d)` (R76). -/
def enc7 (d : List Byte) : List Byte := regroup 8 7 0 0 d

/-- `DEC7(e)` (R78). -/
def dec7 (e : List Byte) : List Byte := regroup 7 8 0 0 e

/-! ### The closed forms' bit streams (R10, R39) -/

/-- The low `w` bits of a byte, the most significant first. -/
def byteBits (w : Nat) (b : Byte) : List Bool := (List.range w).map (fun i => b.toNat.testBit (w - 1 - i))

/-- `bits8(s)` (R10). -/
def bits8 (s : List Byte) : List Bool := s.flatMap (byteBits 8)

/-- `bits7(s)` (R10). -/
def bits7 (s : List Byte) : List Bool := s.flatMap (byteBits 7)

/-- `pack(t)`: a bit stream as an unsigned value, `t(0)` its most significant bit (R10). -/
def pack (t : List Bool) : Byte := BitVec.ofNat 8 (t.foldl (fun acc b => 2 * acc + b.toNat) 0)

/-- Group `j` of `w` bits of a stream, packed. -/
def packGroup (w : Nat) (t : List Bool) (j : Nat) : Byte := pack ((t.drop (w * j)).take w)

/-! ### Meanings -/

/-- `ENC7` (R76): always `OK`; no state is read or written (R80). -/
def execEnc7 (bytes : List Byte) (s : State) : Host.Outcome State Fault Refusal :=
  .next (s.finish .ok (.bytes (enc7 bytes)))

/-- `DEC7` (R78): always `OK`. Where some byte has bit 7 set the output has length `floor(7m/8)` and free bytes (R79). -/
def execDec7 (bytes : List Byte) (s : State) : Host.Outcome State Fault Refusal :=
  if ∀ b ∈ bytes, Byte.isData b then .next (s.finish .ok (.bytes (dec7 bytes)))
  else
    let r := s.drawBytes (7 * bytes.length / 8)
    .next (r.2.finish .ok (.bytes r.1))

end Sys2Proof.Machine
end

