-- ==== Sys2Proof/Machine/CommandBuilder.lean ====
section
/-! DEFINITION. CB, the SysEx command builder (43_command_builder.md): the connection gate (R92), the transmission (R93), the
upload command (R94), `CB_QUERY` (R95), `CB_SAVE` (R96), and the meanings of the outbound command frames (R51, R52). -/

namespace Sys2Proof.Machine

/-- A CB command: declined while not connected, with no byte sent (R92); else one write of its frame (R91, R93). -/
def cbSend (cmd : Byte) (payload : List Byte) (s : State) : ResultCode × State :=
  if s.connected then
    let r := s.txWrite (cbFrame s.cfg cmd payload)
    (r.1.code, r.2)
  else (.declinedNotConnected, s)

/-- The payload of an upload: `[slot & 0xFF] ++ take(ENC7(d), 256)` (R94). -/
def uploadPayload (i : Nat) (d : List Byte) : List Byte := slotByte i :: (enc7 d).take Config.uploadCap

/-- `CbUpload(slot, d)` (R94). -/
def cbUpload (i : Nat) (d : List Byte) (s : State) : ResultCode × State := cbSend 0x01 (uploadPayload i d) s

/-- A CB command as a whole host operation: its result is the response's code. -/
def cbCommand (cmd : Byte) (payload : List Byte) (s : State) : State :=
  let r := cbSend cmd payload s
  r.2.finish r.1 .none

/-- `CB_QUERY(slot)` as R95 writes it. -/
def cbQuery (i : Nat) (s : State) : State :=
  if s.InRange i then cbCommand 0x02 [slotByte i] s else s.finish .declinedRange .none

/-- `CB_SAVE()` as R96 writes it. -/
def cbSave (s : State) : State := cbCommand 0x03 [] s

/-- The end of an upload of slot `i` with result `r` (R101): on `OK` the slot's status becomes `Uploaded`. -/
def uploadDone (i : Nat) (r : ResultCode) (s : State) : State :=
  if r = .ok then s.setStatus i .uploaded else s

/-- To whom the upload command hands its result (R102, R103): `REG_UPLOAD_ONE` ends with it, the pass discards it; with any
other request, or none, nobody called it (notes/assumptions/17.md). -/
def uploadReturn (i : Nat) (r : ResultCode) (s : State) : State :=
  if s.curOp = some opRegUploadOne then (uploadDone i r s).finish r .none
  else if s.curOp = some opRegUploadAll then uploadDone i r s
  else s

/-! ### Meanings -/

/-- `CB_QUERY` (R95). -/
def execCbQuery (slot : Nat) (s : State) : Host.Outcome State Fault Refusal := .next (cbQuery slot s)

/-- `CB_SAVE` (R96). -/
def execCbSave (s : State) : Host.Outcome State Fault Refusal := .next (cbSave s)

/-- `CMD_UPLOAD_SAMPLE` (R94): the frame with slot byte `slot` and encoded payload `payload` is sent for the current
operation, and the result goes to the upload dispatch that called it (R101). notes/assumptions/12.md. -/
def execCmdUploadSample (slot : Byte) (payload : List Byte) (s : State) : Host.Outcome State Fault Refusal :=
  let r := cbSend 0x01 (slot :: payload) s
  .next (uploadReturn slot.toNat r.1 r.2)

/-- `CMD_QUERY_SLOT` (R95), the frame of slot `slot`. notes/assumptions/12.md. -/
def execCmdQuerySlot (slot : Byte) (s : State) : Host.Outcome State Fault Refusal := .next (cbQuery slot.toNat s)

/-- `CMD_SAVE_PROJECT` (R96). notes/assumptions/12.md. -/
def execCmdSaveProject (s : State) : Host.Outcome State Fault Refusal := .next (cbSave s)

end Sys2Proof.Machine
end

