-- ==== Sys2Proof/Machine/Registry.lean ====
section
/-! DEFINITION. RQ, the slot registry and upload queue (44_registry_queue.md), the read operations, and the illegal request. -/

namespace Sys2Proof.Machine

/-- A slot after a successful `REG_ASSIGN` (R100). -/
def assignedSlot (c : Config) (path : Path) (d : List Byte) : Slot :=
  { name := some (deriveName c.nameRule path), data := some d, size := d.length, status := .loaded }

/-- `if slot not in S.queue: S.queue.append(slot)` (R100). -/
def State.enqueue (i : Nat) (s : State) : State :=
  if i ∈ s.queue then s else { s with queue := s.queue ++ [i] }

/-- The second step of `REG_ASSIGN`: what follows the storage's answer (R100). -/
def assignFinish (i : Nat) (path : Path) (r : StorageAnswer) (s : State) : State :=
  match r with
  | .ioError => s.finish .storageError .none
  | .ok d    => ((s.setSlot i (assignedSlot s.cfg path d)).enqueue i).finish .ok .none

/-- One step of `REG_ASSIGN(slot, path)` (R100): the range check and the storage read, then the rest. -/
def regAssign (i : Nat) (path : Path) (s : State) : State :=
  if s.InRange i then
    match s.storageReply with
    | none =>
      let r := s.storageRead path
      { r.2 with storageReply := some r.1 }
    | some r => assignFinish i path r { s with storageReply := none }
  else s.finish .declinedRange .none

/-- `Dispatch(i)` (R101): slot data first, then the connection and the write (R116). -/
def dispatch (i : Nat) (s : State) : ResultCode × State :=
  match (s.slotAt i).usable with
  | none   => (.declinedEmpty, s)
  | some d =>
    let r := cbUpload i d s
    (r.1, uploadDone i r.1 r.2)

/-- `REG_UPLOAD_ONE(slot)` (R102). -/
def regUploadOne (i : Nat) (s : State) : State :=
  if s.InRange i then
    let r := dispatch i s
    r.2.finish r.1 .none
  else s.finish .declinedRange .none

/-- One step of `REG_UPLOAD_ALL()` (R103): the pass begins; or the head of the queue leaves it and is dispatched, its result
discarded; or the queue is empty and the pass ends with `OK`. -/
def regUploadAll (s : State) : State :=
  if s.upActive then
    match s.queue with
    | []     => { s with upActive := false }.finish .ok .none
    | h :: t => (dispatch h { s with queue := t }).2
  else { s with upActive := true }

/-- `REG_CLEAR(slot)` (R104). -/
def regClear (i : Nat) (s : State) : State :=
  if s.InRange i then (s.setSlot i Slot.cleared).finish .ok .none else s.finish .declinedRange .none

/-- `RD_SLOT(slot)` (R105). -/
def rdSlot (i : Nat) (s : State) : State :=
  if s.InRange i then s.finish .ok (.slot (s.slotAt i)) else s.finish .declinedRange .none

/-! ### Meanings -/

/-- `REG_ASSIGN` (R100). -/
def execRegAssign (slot : Nat) (path : Path) (s : State) : Host.Outcome State Fault Refusal := .next (regAssign slot path s)

/-- `REG_UPLOAD_ONE` (R102). -/
def execRegUploadOne (slot : Nat) (s : State) : Host.Outcome State Fault Refusal := .next (regUploadOne slot s)

/-- `REG_UPLOAD_ALL` (R103). -/
def execRegUploadAll (s : State) : Host.Outcome State Fault Refusal := .next (regUploadAll s)

/-- `REG_CLEAR` (R104). -/
def execRegClear (slot : Nat) (s : State) : Host.Outcome State Fault Refusal := .next (regClear slot s)

/-- `RD_SLOT` (R105). -/
def execRdSlot (slot : Nat) (s : State) : Host.Outcome State Fault Refusal := .next (rdSlot slot s)

/-- `RD_SESSION` (R106). -/
def execRdSession (s : State) : Host.Outcome State Fault Refusal :=
  .next (s.finish .ok (.session s.connected s.matched))

/-- `RD_QUEUE` (R107). -/
def execRdQueue (s : State) : Host.Outcome State Fault Refusal := .next (s.finish .ok (.queue s.queue))

/-- An illegal op code (R56, R108). -/
def execIllegal (_op : Byte) (s : State) : Host.Outcome State Fault Refusal := .next (s.finish .illegalOp .none)

end Sys2Proof.Machine
end

