-- ==== Sys2Proof/Machine/Dispatch.lean ====
section
/-! DEFINITION. One arm per instruction, each one call of its meaning. -/

namespace Sys2Proof.Machine

def exec (i : Instr) (s : State) : Host.Outcome State Fault Refusal :=
  match i with
  -- host requests
  | .frTry => Sys2Proof.Machine.execFrTry s
  | .enc7 bytes => Sys2Proof.Machine.execEnc7 bytes s
  | .dec7 bytes => Sys2Proof.Machine.execDec7 bytes s
  | .negDetect => Sys2Proof.Machine.execNegDetect s
  | .cbQuery slot => Sys2Proof.Machine.execCbQuery slot s
  | .cbSave => Sys2Proof.Machine.execCbSave s
  | .regAssign slot path => Sys2Proof.Machine.execRegAssign slot path s
  | .regUploadOne slot => Sys2Proof.Machine.execRegUploadOne slot s
  | .regUploadAll => Sys2Proof.Machine.execRegUploadAll s
  | .regClear slot => Sys2Proof.Machine.execRegClear slot s
  | .rdSlot slot => Sys2Proof.Machine.execRdSlot slot s
  | .rdSession => Sys2Proof.Machine.execRdSession s
  | .rdQueue => Sys2Proof.Machine.execRdQueue s
  | .illegal op => Sys2Proof.Machine.execIllegal op s
  -- inbound head bytes
  | .dropData x => Sys2Proof.Machine.execDropData x s
  | .noteOff channel operands => Sys2Proof.Machine.execNoteOff channel operands s
  | .noteOn channel operands => Sys2Proof.Machine.execNoteOn channel operands s
  | .dropA0 x => Sys2Proof.Machine.execDropA0 x s
  | .controlChange channel operands => Sys2Proof.Machine.execControlChange channel operands s
  | .dropC0 x => Sys2Proof.Machine.execDropC0 x s
  | .dropD0 x => Sys2Proof.Machine.execDropD0 x s
  | .dropE0 x => Sys2Proof.Machine.execDropE0 x s
  | .sysexStart => Sys2Proof.Machine.execSysexStart s
  | .dropF1 => Sys2Proof.Machine.execDropF1 s
  | .dropF2 x => Sys2Proof.Machine.execDropF2 x s
  | .dropF4 x => Sys2Proof.Machine.execDropF4 x s
  | .dropF8 x => Sys2Proof.Machine.execDropF8 x s
  -- inbound capture bytes
  | .capEnd => Sys2Proof.Machine.execCapEnd s
  | .capData x => Sys2Proof.Machine.execCapData x s
  | .capStatus80 x => Sys2Proof.Machine.execCapStatus80 x s
  | .capStatusC0 x => Sys2Proof.Machine.execCapStatusC0 x s
  | .capStatusE0 x => Sys2Proof.Machine.execCapStatusE0 x s
  | .capStatusF0 x => Sys2Proof.Machine.execCapStatusF0 x s
  | .capStatusF4 x => Sys2Proof.Machine.execCapStatusF4 x s
  | .capStatusF6 => Sys2Proof.Machine.execCapStatusF6 s
  | .capStatusF8 x => Sys2Proof.Machine.execCapStatusF8 x s
  -- outbound frames
  | .cmdUploadSample slot payload => Sys2Proof.Machine.execCmdUploadSample slot payload s
  | .cmdQuerySlot slot => Sys2Proof.Machine.execCmdQuerySlot slot s
  | .cmdSaveProject => Sys2Proof.Machine.execCmdSaveProject s
  | .inquiry => Sys2Proof.Machine.execInquiry s

end Sys2Proof.Machine
end

