-- ==== Sys2Proof/Machine/Fetch.lean ====
section
/-! DEFINITION. Which instruction the engine performs next (R17: "the position of the engine inside an operation is held by
S.eng, S.cur, S.fr_state, S.ng_phase and S.up_active together"), and how an instruction is laid where it is fetched. -/

namespace Sys2Proof.Machine

/-- The framer runs at the head of the FIFO: `FR_TRY` (R62), or the drain of `NEG_DETECT` (R87). -/
abbrev State.FramerRuns (s : State) (q : Request) : Prop :=
  q.op = opFrTry ∨ (q.op = opNegDetect ∧ s.ngPhase = .drain)

/-- The instruction of the engine's next step, none where the engine has no enabled step (R11, R18): in a capture the byte
at the head of the FIFO (R72, R73); where the framer runs over a byte, that head byte (R61); in the settle wait none (R86);
else the operation of the request itself. -/
def fetch (s : State) : Option Instr :=
  match s.eng, s.cur with
  | .busy, some q =>
    match s.frState with
    | .capture => (decodeCapture s.rx).toOption
    | .idle =>
      if s.FramerRuns q ∧ s.rx ≠ [] then (decodeHead s.rx).toOption
      else if q.op = opNegDetect ∧ s.ngPhase = .settle then none
      else some (decodeRequest q)
  | _, _ => none

/-- The engine takes its step, if it has one; a hold leaves the state (notes/assumptions/15.md). -/
def engineStep (s : State) : Host.Outcome State Fault Refusal :=
  match fetch s with
  | some i => exec i s
  | none   => .next s.hold

/-! ### Laying an instruction where it is fetched (notes/assumptions/13.md) -/

/-- The engine at the start of the request `q`, with no other turn before its step. -/
def State.withRequest (q : Request) (s : State) : State :=
  { s with
    eng := .busy, cur := some q, frState := .idle, frBuf := [], ngPhase := .idle, ngCollected := [], upActive := false,
    storageReply := none, schedule := [], forever := .rest }

/-- `FR_TRY` in progress, with `bs` at the head of the FIFO. -/
def State.withHead (bs : List Byte) (s : State) : State :=
  { s.withRequest (requestOf opFrTry) with rx := bs ++ s.rx }

/-- `FR_TRY` in a capture, with `bs` at the head of the FIFO. -/
def State.withCapture (bs : List Byte) (s : State) : State :=
  { s.withHead bs with frState := .capture, frBuf := if s.frState = .capture then s.frBuf else [] }

/-- The shortest sample whose `ENC7` is `p`. -/
def sampleOf (p : List Byte) : List Byte := dec7 (p ++ [0x00])

/-- The operation that sends a frame, with the slot it sends. -/
def State.withFrame (s : State) : Decoded → State
  | .ok (.cmdUploadSample b p) =>
    let d := sampleOf p
    (s.setSlot b.toNat { name := (s.slotAt b.toNat).name, data := some d, size := d.length, status := .loaded }).withRequest
      (requestOf opRegUploadOne (slot := b.toNat))
  | .ok (.cmdQuerySlot b) => s.withRequest (requestOf 0x20 (slot := b.toNat))
  | .ok .cmdSaveProject   => s.withRequest (requestOf 0x21)
  | .ok .inquiry          => s.withRequest (requestOf opNegDetect)
  | _                     => s

/-- A text of one of the surfaces, laid where the engine's next step reads it. -/
def State.withText (s : State) : Encoded → State
  | .request q  => s.withRequest q
  | .head bs    => s.withHead bs
  | .capture bs => s.withCapture bs
  | .frame bs   => s.withFrame (decodeFrame s.cfg bs)

end Sys2Proof.Machine
end

