-- ==== Sys2Proof/Machine/Schedule.lean ====
section
/-! DEFINITION. The steps of the environment (R29, R57, R86), and which agent takes the next step (R5, R6, R43, R137). -/

namespace Sys2Proof.Machine

/-- The host's step `REQUEST(q)`: `S.cur <- q`, `S.eng <- BUSY` (R57). -/
def State.accept (q : Request) (s : State) : State := { s with eng := .busy, cur := some q }

/-- The next block of the turns that follow without end. Each block ends in the turn `fair`, so no endless run passes over an
enabled step of the engine or of the settle timer for ever (R137; notes/assumptions/1.md). -/
def foreverBlock : Forever → List Turn
  | .rest     => []
  | .again ts => ts ++ [.fair]
  | .free k n => Config.freeTurns k n ++ [.fair]

/-- What follows that block. -/
def foreverNext : Forever → Forever
  | .free k n => .free k (n + 1)
  | f         => f

/-- The next block, put into the schedule where it is empty (R43, R130; notes/assumptions/1.md). -/
def State.refilled (s : State) : State :=
  match s.schedule with
  | []     => { s with schedule := foreverBlock s.forever, forever := foreverNext s.forever }
  | _ :: _ => s

/-- The move that weak fairness promises (R137): the engine if it has a step, else the settle timer in the settle wait, else
nobody. It is taken where the turn is `fair`, where no turn is to come, and where the next turn is not enabled
(notes/assumptions/2.md). -/
def defaultMove (s : State) : Host.Outcome State Fault Refusal :=
  match fetch s with
  | some i => exec i s
  | none   => if s.ngPhase = .settle then .next (settleEnd s) else .next s.hold

/-- The move of a scheduled turn; `s` has the turn still in its schedule, and `r` is what follows it. A turn of the host or of
the timer that is not enabled (R57, R86) stays in the schedule (notes/assumptions/2.md). -/
def takeTurn (t : Turn) (r : List Turn) (s : State) : Host.Outcome State Fault Refusal :=
  match t with
  | .engine    => engineStep { s with schedule := r }
  | .untilHold => if (fetch s).isSome then engineStep s else .next { s with schedule := r }
  | .rxPush b  => .next (State.rxPush b { s with schedule := r })
  | .settleEnd => if s.ngPhase = .settle then .next (settleEnd { s with schedule := r }) else defaultMove s
  | .request q => if s.eng = .idle then .next (State.accept q { s with schedule := r }) else defaultMove s
  | .fair      => defaultMove { s with schedule := r }

/-- The next turn of the schedule is taken, or, with none, the default move. -/
def scheduledMove (s : State) : Host.Outcome State Fault Refusal :=
  match s.schedule with
  | []     => defaultMove s
  | t :: r => takeTurn t r s

/-- One step of the machine: a configuration outside this spec is refused (R8, R4, R122); else the next turn is taken,
from the turns without end where the schedule is empty. -/
def machineStep (s : State) : Host.Outcome State Fault Refusal :=
  if ¬ s.cfg.WellFormed then .refused .illFormedConfig
  else if s.cfg.hardened ≠ [] then .refused .hardenedVariant
  else scheduledMove s.refilled

end Sys2Proof.Machine
end

