-- ==== Sys2Proof/Machine/Step.lean ====
section
/-! DEFINITION. The step function, and an instruction laid where the next step fetches it. -/

namespace Sys2Proof.Machine

/-- One step (R5, R43). -/
def step (s : State) : Host.Outcome State Fault Refusal := machineStep s

/-- The instruction of a word of the opcode table, laid where `step` reads its next instruction: a request is in progress, or
a byte stands at the head of the FIFO of a running `FR_TRY` (notes/assumptions/13.md, notes/assumptions/11.md). -/
def State.withFetchWord (s : State) (nbits w : Nat) : State := s.withText (tableText nbits w)

end Sys2Proof.Machine
end

