-- ==== Sys2Proof/Machine/Assembler.lean ====
section
/-! DEFINITION. The host program syntax of 30_encoding.md rule R59: its lines, their text, and what a program puts into the
schedule and the answers of the environment. -/

namespace Sys2Proof.Machine

/-- A line of a host program (R59). -/
inductive Line
  | frTry
  | c7Enc (bytes : List Byte)
  | c7Dec (bytes : List Byte)
  | ngDetect
  | cbQuery (slot : Nat)
  | cbSave
  | rqAssign (slot : Nat) (path : Path)
  | rqUpload (slot : Nat)
  | rqUploadAll
  | rqClear (slot : Nat)
  | rdSlot (slot : Nat)
  | rdSession
  | rdQueue
  /-- `env.rx b0 b1 ..`, one `RX_PUSH` per byte -/
  | envRx (bytes : List Byte)
  | envTxOk
  | envTxErr (emitted : Nat)
  | envStorageOk (bytes : List Byte)
  | envStorageErr
  | envSettle
  deriving DecidableEq, Repr

/-- The instruction of an operation line; an environment line has none (R59). -/
def Line.instr : Line → Option Instr
  | .frTry        => some .frTry
  | .c7Enc bs     => some (.enc7 bs)
  | .c7Dec bs     => some (.dec7 bs)
  | .ngDetect     => some .negDetect
  | .cbQuery i    => some (.cbQuery i)
  | .cbSave       => some .cbSave
  | .rqAssign i p => some (.regAssign i p)
  | .rqUpload i   => some (.regUploadOne i)
  | .rqUploadAll  => some .regUploadAll
  | .rqClear i    => some (.regClear i)
  | .rdSlot i     => some (.rdSlot i)
  | .rdSession    => some .rdSession
  | .rdQueue      => some .rdQueue
  | _             => none

/-- A hexadecimal digit. -/
def hexDigit (n : Nat) : String := (Nat.toDigits 16 (n % 16)).map Char.toUpper |> String.ofList

/-- A byte as a bare pair of hexadecimal digits (R9, R59). -/
def hexByte (b : Byte) : String := hexDigit (b.toNat / 16) ++ hexDigit b.toNat

/-- Bytes separated by blanks. -/
def hexBytes (bs : List Byte) : String := String.intercalate " " (bs.map hexByte)

/-- The text of a line (R59). -/
def Line.text : Line → String
  | .frTry           => "fr.try"
  | .c7Enc bs        => "c7.enc [" ++ hexBytes bs ++ "]"
  | .c7Dec bs        => "c7.dec [" ++ hexBytes bs ++ "]"
  | .ngDetect        => "ng.detect"
  | .cbQuery i       => "cb.query " ++ toString i
  | .cbSave          => "cb.save"
  | .rqAssign i p    => "rq.assign " ++ toString i ++ ", \"" ++ p ++ "\""
  | .rqUpload i      => "rq.upload " ++ toString i
  | .rqUploadAll     => "rq.upload_all"
  | .rqClear i       => "rq.clear " ++ toString i
  | .rdSlot i        => "rd.slot " ++ toString i
  | .rdSession       => "rd.session"
  | .rdQueue         => "rd.queue"
  | .envRx bs        => "env.rx " ++ hexBytes bs
  | .envTxOk         => "env.tx ok"
  | .envTxErr k      => "env.tx err " ++ toString k
  | .envStorageOk bs => "env.storage ok [" ++ hexBytes bs ++ "]"
  | .envStorageErr   => "env.storage err"
  | .envSettle       => "env.settle"

/-- The turns of a line: an operation is one `REQUEST`; `env.rx` and `env.settle` are taken at the first point where the
engine has no step, `env.rx` one `RX_PUSH` per byte; an answer takes no turn (R59). -/
def Line.turns (c : Config) (l : Line) : List Turn :=
  match l with
  | .envRx bs  => bs.flatMap (fun b => [.untilHold, .rxPush b])
  | .envSettle => [.untilHold, .settleEnd]
  | _ =>
    match l.instr.map (encode c) with
    | some (.request q) => [.request q]
    | _                 => []

/-- The answer of the sink a line gives (R59). -/
def Line.sink : Line → List SinkAnswer
  | .envTxOk    => [.ok]
  | .envTxErr k => [.ioError k]
  | _           => []

/-- The answer of the storage a line gives (R59). -/
def Line.storage : Line → List StorageAnswer
  | .envStorageOk bs => [.ok bs]
  | .envStorageErr   => [.ioError]
  | _                => []

/-- A program laid into a state: its turns and answers follow those already there (R59; notes/assumptions/21.md). -/
def State.withProgram (s : State) (p : List Line) : State :=
  { s with
    schedule    := s.schedule ++ p.flatMap (Line.turns s.cfg)
    sinkNext    := s.sinkNext ++ p.flatMap Line.sink
    storageNext := s.storageNext ++ p.flatMap Line.storage }

end Sys2Proof.Machine
end

