-- ==== Sys2Proof/Safety.lean ====
section
/-! DEFINITION. What counts as a safe state and a safe run, in the terms the claims use: the invariant of 10_state.md (R18 to
R27, R30), the shape of an outbound frame (R51, R91), and names for groups of instructions. -/

namespace Sys2Proof

/-- A turn never comes among the turns that follow without end. -/
def Forever.Never (x : Turn) : Forever → Prop
  | .rest     => True
  | .again ts => x ∉ Machine.foreverBlock (.again ts)
  | .free k n => ∀ m, n ≤ m → x ∉ Machine.foreverBlock (.free k m)

end Sys2Proof

namespace Sys2Proof.Machine

/-- R25: an `Empty` slot holds nothing; a `Loaded` or `Uploaded` slot holds data of its size. -/
def SlotOk (r : Slot) : Prop :=
  (r.status = .empty → r.data = none ∧ r.size = 0) ∧
    (r.status ≠ .empty → ∃ d, r.data = some d ∧ r.size = d.length)

/-- R30: `emitted` is the frame when the answer is `Ok`, and a first part of it when it is `IoError`. -/
def TxOk (t : TxRecord) : Prop := (t.answer = .ok → t.emitted = t.frame) ∧ t.emitted <+: t.frame

/-- The wire format of §6: `F0`, data bytes, `F7` (R8, R91). -/
def FrameClean (f : List Byte) : Prop := ∃ body, f = 0xF0 :: body ++ [0xF7] ∧ ∀ b ∈ body, Byte.isData b

/-- The invariant of the engine. -/
structure State.Inv (s : State) : Prop where
  /-- the configuration is well formed, without a hardened variant (R8, R4) -/
  legal         : s.cfg.Legal
  /-- a request is in progress exactly while the engine is busy (R18) -/
  idleIff       : s.eng = .idle ↔ s.cur = none
  /-- R19 -/
  idleBuf       : s.frState = .idle → s.frBuf = []
  /-- R19 -/
  captureOp     : s.frState = .capture →
    s.curOp = some opFrTry ∨ (s.curOp = some opNegDetect ∧ s.ngPhase = .drain)
  /-- R20 -/
  phaseOp       : s.ngPhase ≠ .idle → s.curOp = some opNegDetect
  /-- R20 -/
  idleCollected : s.ngPhase = .idle → s.ngCollected = []
  /-- R21 -/
  passOp        : s.upActive = true → s.curOp = some opRegUploadAll
  /-- the storage's answer is held only between the two steps of `REG_ASSIGN` (R100) -/
  replyOp       : s.storageReply ≠ none →
    ∃ q, s.cur = some q ∧ q.op = opRegAssign ∧ q.slot < s.cfg.numSlots
  /-- R24 -/
  slotCount     : s.slots.length = s.cfg.numSlots
  /-- R25 -/
  slotsOk       : ∀ r ∈ s.slots, SlotOk r
  /-- R27, R110 -/
  queueNodup    : s.queue.Nodup
  /-- R27, R110 -/
  queueRange    : ∀ i ∈ s.queue, i < s.cfg.numSlots
  /-- R30 -/
  txOk          : ∀ t ∈ s.tx, TxOk t
  /-- a connected session has the manufacturer ID last matched (R22, R88) -/
  session       : s.connected = true → s.matched = some s.cfg.mfrId

/-- Every frame sent so far has the wire format of §6. -/
def State.FramesClean (s : State) : Prop := ∀ t ∈ s.tx, FrameClean t.frame

/-- A request is in progress (R18). -/
def State.Running (s : State) (q : Request) : Prop := s.eng = .busy ∧ s.cur = some q

/-- No turn is scheduled and none follows: the machine moves by itself. -/
def State.Alone (s : State) : Prop := s.cfg.Legal ∧ s.schedule = [] ∧ s.forever = .rest

/-- A turn never comes. -/
def State.NeverTurns (x : Turn) (s : State) : Prop := x ∉ s.schedule ∧ s.forever.Never x

/-- `n` steps of the machine (Host.Core.run, with the model's own types written out). -/
def run (n : Nat) (s : State) : Host.Outcome State Fault Refusal := Host.Core.run core n s

/-- A declined result: `DECLINED_*` or `ILLEGAL_OP` (R112). -/
def ResultCode.Declined : ResultCode → Prop
  | .declinedNotConnected | .declinedRange | .declinedEmpty | .illegalOp => True
  | _ => False

end Sys2Proof.Machine

namespace Sys2Proof

/-- The head rows that drop their byte (R70). -/
def Instr.Drops : Instr → Prop
  | .dropData _ | .dropA0 _ | .dropC0 _ | .dropD0 _ | .dropE0 _ | .dropF1 | .dropF2 _ | .dropF4 _ | .dropF8 _ => True
  | _ => False

/-- The byte a capture row stores (R72). -/
def Instr.stored : Instr → Option Byte
  | .capData x     => some (rowByte 0x00 x)
  | .capStatus80 x => some (rowByte 0x80 x)
  | .capStatusC0 x => some (rowByte 0xC0 x)
  | .capStatusE0 x => some (rowByte 0xE0 x)
  | .capStatusF0 x => some (rowByte 0xF0 x)
  | .capStatusF4 x => some (rowByte 0xF4 x)
  | .capStatusF6   => some 0xF6
  | .capStatusF8 x => some (rowByte 0xF8 x)
  | _              => none

/-- The instructions of the framer: `FR_TRY`, the head rows and the capture rows. -/
def Instr.OfFramer (i : Instr) : Prop := i = .frTry ∨ i.surface = .inboundHead ∨ i.surface = .inboundCapture

end Sys2Proof
end

