-- ==== Sys2Proof/Certificates/Slice0/Obligations.lean ====
section
/-! DEFINITION. The statements for the provers. Each docstring names the rule of spec/ a statement formalises; where a clause
rests on a choice of the model it names the assumption log's entry. -/

section
open Sys2Proof Sys2Proof.Machine

/-! ### Encodings -/

/-- 30_encoding.md: decoding the encoding of a well-formed instruction gives the instruction back, on all four surfaces. -/
def Obligations.DecodeOfEncodeIsTheInstruction : Prop :=
  ∀ (c : Config) (i : Instr), c.Legal → i.WellFormed → decode c (encode c i) = .ok i

/-- 30_encoding.md section 1 (R47, R48): every byte matches exactly one row of the head table and exactly one of the capture
table, and that row's instruction is decoded. -/
def Obligations.EveryInboundByteHasOneRow : Prop :=
  ∀ (h : Byte) (rest : List Byte),
    (∃ c : HeadClass, c.Matches h ∧ (∀ c' : HeadClass, c'.Matches h → c' = c) ∧
      decodeHead (h :: rest) = .ok (c.instr h rest)) ∧
    (∃ c : CaptureClass, c.Matches h ∧ (∀ c' : CaptureClass, c'.Matches h → c' = c) ∧
      decodeCapture (h :: rest) = .ok (c.instr h))

/-- 30_encoding.md: words written out from the spec's tables decode to the instructions they stand for, one or more of every
surface (a sanity statement). -/
def Obligations.WordsFromTheSpecDecode : Prop :=
  decodeRequest { op := 0x31, slot := 5, path := "", bytes := [] } = .regUploadOne 5 ∧
  decodeRequest { op := 0x34, slot := 0, path := "", bytes := [] } = .illegal 0x34 ∧
  decodeHead [0x95, 0x40, 0x7F] = .ok (.noteOn 5 (.complete 0x40 0x7F)) ∧
  decodeHead [0xBF, 0x07] = .ok (.controlChange 15 .incomplete) ∧
  decodeHead [0xE3, 0x00] = .ok (.dropE0 3) ∧
  decodeCapture [0xF7] = .ok .capEnd ∧
  decodeCapture [0xF8] = .ok (.capStatusF8 0) ∧
  decodeFrame Config.default [0xF0, 0x00, 0x20, 0x29, 0x00, 0x01, 0x05, 0x20, 0x50, 0x48, 0xF7]
    = .ok (.cmdUploadSample 0x05 [0x20, 0x50, 0x48]) ∧
  decodeFrame Config.default [0xF0, 0x7E, 0x00, 0x06, 0x01, 0xF7] = .ok .inquiry

/-- R56, R108: an op code outside R55 is illegal and answered at once with `ILLEGAL_OP`, with no other state changed; every op
code of R55 is not. -/
def Obligations.IllegalOpCodesAreAnswered : Prop :=
  ∀ (q : Request) (s : State),
    ((q.op = 0x00 ∨ (0x04 ≤ q.op ∧ q.op ≤ 0x0F) ∨ (0x11 ≤ q.op ∧ q.op ≤ 0x1F) ∨ (0x22 ≤ q.op ∧ q.op ≤ 0x2F) ∨
        (0x34 ≤ q.op ∧ q.op ≤ 0x3F) ∨ 0x43 ≤ q.op) →
      decodeRequest q = .illegal q.op ∧
      exec (.illegal q.op) s =
        .next { s with resp := s.resp ++ [{ code := .illegalOp, value := .none }], cur := none, eng := .idle }) ∧
    (q.op ∈ ([0x01, 0x02, 0x03, 0x10, 0x20, 0x21, 0x30, 0x31, 0x32, 0x33, 0x40, 0x41, 0x42] : List Byte) →
      ∀ op, decodeRequest q ≠ .illegal op)

/-! ### The step, the environment's steps and the whole machine -/

/-- A step runs the decoded instruction: the byte at the head of the FIFO in a capture (30_encoding.md section 1, R48), the
bytes at its head where the framer runs (R47), or the request itself (30_encoding.md section 3, R54, R55). Four clauses rest
on the model and not on a rule: with no turn to come the engine moves by itself (log entry 2, DEDUCED from the weak fairness
of R137); with an engine turn or a `fair` turn next that turn is taken from the schedule, and an `untilHold` turn stays in it
(log entry 1, the model's choice). `s.refilled` is `s` with the turns that follow without end in an empty schedule (log entry 1). -/
def Obligations.StepRunsTheDecodedInstruction : Prop :=
  ∀ (s : State) (q : Request) (i : Instr) (r : List Turn), s.cfg.Legal → s.Running q →
    ((s.frState = .capture ∧ decodeCapture s.rx = .ok i) ∨
      (s.frState = .idle ∧ (q.op = 0x01 ∨ (q.op = 0x10 ∧ s.ngPhase = .drain)) ∧ decodeHead s.rx = .ok i) ∨
      (s.frState = .idle ∧ i = decodeRequest q ∧
        (q.op = 0x01 → s.rx = []) ∧
        (q.op = 0x10 → s.ngPhase = .idle ∨ s.ngPhase = .scan ∨ (s.ngPhase = .drain ∧ s.rx = [])))) →
    (s.refilled.schedule = [] → step s = exec i s) ∧
    (s.refilled.schedule = .engine :: r → step s = exec i { s.refilled with schedule := r }) ∧
    (s.refilled.schedule = .fair :: r → step s = exec i { s.refilled with schedule := r }) ∧
    (s.refilled.schedule = .untilHold :: r → step s = exec i s.refilled)

/-- R61, R47, R48: one step of `FrStep` as its pseudocode writes it (`FR_TRY`, and the drain of `NEG_DETECT`) is the meaning
of the instruction that the decode tables give for the bytes at the head of the FIFO. -/
def Obligations.FrStepIsTheDecodedRow : Prop :=
  ∀ (s : State) (i : Instr),
    ((s.frState = .idle ∧ decodeHead s.rx = .ok i) ∨ (s.frState = .capture ∧ decodeCapture s.rx = .ok i)) →
    exec .frTry s = exec i s ∧ (s.ngPhase = .drain → exec .negDetect s = exec i s)

/-- 30_encoding.md section 3 (R57): a scheduled request is taken when the engine is idle and sets `S.cur` and `S.eng` only;
while the engine is busy no step takes it. The turns to come are a list in the state, refilled where it is empty, and a request
that is not enabled waits in it (log entries 1 and 2, the model's choice). -/
def Obligations.RequestIsTakenOnlyWhenIdle : Prop :=
  ∀ (s : State) (q : Request) (r : List Turn), s.cfg.Legal → s.refilled.schedule = .request q :: r →
    (s.eng = .idle → step s = .next { s.refilled with cur := some q, eng := .busy, schedule := r }) ∧
    (s.eng = .busy → ∀ t, step s = .next t → t.schedule = s.refilled.schedule ∧ (t.cur = s.cur ∨ t.cur = none))

/-- R29: `RX_PUSH(b)` is enabled in every state, appends the byte and writes no other state; and it is the only step that
lifts a framer hold: every other step leaves a machine that holds in a capture there, with an empty FIFO. The turns to come
are a list in the state, refilled where it is empty (log entry 1, the model's choice). -/
def Obligations.RxPushAppendsAndAloneLiftsTheHold : Prop :=
  ∀ (s : State), s.cfg.Legal →
    (∀ b r, s.refilled.schedule = .rxPush b :: r →
      step s = .next { s.refilled with rx := s.rx ++ [b], schedule := r }) ∧
    (s.Inv → s.frState = .capture → s.rx = [] → (∀ b r, s.refilled.schedule ≠ .rxPush b :: r) →
      ∀ t, step s = .next t → t.frState = .capture ∧ t.rx = [] ∧ t.frBuf = s.frBuf ∧ t.cur = s.cur ∧ t.eng = s.eng)

/-- R74: a SysEx frame whose `F7` is neither in the FIFO nor ever pushed never ends: after any number of steps the operation
is still in progress, in the capture, and has answered nothing. The turns to come are a list in the state and what follows it
without end (log entry 1, the model's choice). -/
def Obligations.UnterminatedSysExNeverFinishes : Prop :=
  ∀ (s : State) (n : Nat) (t : State), s.Inv → s.frState = .capture → 0xF7 ∉ s.rx →
    s.NeverTurns (.rxPush 0xF7) → run n s = .next t →
    t.frState = .capture ∧ t.eng = .busy ∧ t.cur = s.cur ∧ t.resp = s.resp ∧ s.frBuf <+: t.frBuf

/-- R86, R29: the settle wait, turn by turn: the engine has no step, so its turns change nothing; the serial source appends its
byte and the wait goes on; the timer's step begins the drain and changes nothing else. And the wait ends, whatever turns are to
come (R137, weak fairness): after some steps that do nothing but push bytes (and pass over turns) the timer takes its step.
That turns are scheduled, and taken from the schedule, and that each block of endless turns ends in a `fair` turn, is log entry
1 (the model's choice); that the timer takes its step where no turn is to come, or only a request that is not enabled while the
engine is busy, is log entry 2 (DEDUCED from R137). -/
def Obligations.SettleWaitEndsByTheTimer : Prop :=
  ∀ (s : State) (q : Request) (r : List Turn), s.cfg.Legal → s.Running q → q.op = 0x10 → s.frState = .idle →
    s.ngPhase = .settle →
    (s.refilled.schedule = .engine :: r → step s = .next { s.refilled with schedule := r }) ∧
    (s.refilled.schedule = .untilHold :: r → step s = .next { s.refilled with schedule := r }) ∧
    (∀ b, s.refilled.schedule = .rxPush b :: r →
      step s = .next { s.refilled with rx := s.rx ++ [b], schedule := r }) ∧
    (s.refilled.schedule = .settleEnd :: r → step s = .next { s.refilled with ngPhase := .drain, schedule := r }) ∧
    (s.refilled.schedule = .fair :: r → step s = .next { s.refilled with ngPhase := .drain, schedule := r }) ∧
    (∀ p, s.refilled.schedule = .request p :: r → step s = .next { s.refilled with ngPhase := .drain }) ∧
    (s.refilled.schedule = [] → step s = .next { s with ngPhase := .drain }) ∧
    (∃ n bs sch f sch' f', run n s = .next { s with rx := s.rx ++ bs, schedule := sch, forever := f } ∧
      step { s with rx := s.rx ++ bs, schedule := sch, forever := f } =
        .next { s with rx := s.rx ++ bs, ngPhase := .drain, schedule := sch', forever := f' })

/-- 42_negotiator.md (R86): `SETTLE_END` is enabled only in the settle phase. In it the step writes `S.ng_phase <- NG_DRAIN` and
nothing else; in another phase a scheduled settle turn is not taken; and no other step begins a drain: a step that leaves the
machine in the drain started in the drain, or was `SETTLE_END` in the settle phase. The turns to come are a list in the state,
refilled where it is empty, and a turn that is not enabled waits in it (log entries 1 and 2, the model's choice). -/
def Obligations.SettleEndOnlyInTheSettlePhase : Prop :=
  ∀ (s : State),
    (∀ r, s.cfg.Legal → s.refilled.schedule = .settleEnd :: r → s.ngPhase = .settle →
      step s = .next { s.refilled with ngPhase := .drain, schedule := r }) ∧
    (∀ r t, s.refilled.schedule = .settleEnd :: r → s.ngPhase ≠ .settle → step s = .next t →
      t.schedule = s.refilled.schedule) ∧
    (∀ t, step s = .next t → t.ngPhase = .drain →
      s.ngPhase = .drain ∨
        (s.ngPhase = .settle ∧ t = { s with ngPhase := .drain, schedule := t.schedule, forever := t.forever }))

/-- 60_exceptions.md (R122) and 00_scope.md (R8, R4): the engine has no fault; every state with a legal configuration has a
next state, a configuration that is not well formed is refused, and so is a hardened variant. Two things are the model's choice
and no rule: where R122 gives the engine no enabled step (a hold) the machine still answers a next state, which leaves the
state as it is (log entry 15); and it is `step`, not `exec`, that refuses a configuration (log entry 19). The last clause is the
weak fairness of 70_reset_and_hazards.md (R137): an engine that has an enabled step takes it, whatever turns are to come: after
some steps that do nothing but push bytes the machine takes the engine's step, in the state those pushes made. How the turns to
come keep this is log entries 1 and 2 (the model's choice). -/
def Obligations.EveryLegalStateHasANextState : Prop :=
  ∀ (s : State),
    (s.cfg.Legal → ∃ t, step s = .next t) ∧
    (¬ s.cfg.WellFormed → step s = .refused .illFormedConfig) ∧
    (s.cfg.WellFormed → s.cfg.hardened ≠ [] → step s = .refused .hardenedVariant) ∧
    (∀ i, s.Inv → fetch s = some i →
      ∃ n bs sch f sch' f' j, run n s = .next { s with rx := s.rx ++ bs, schedule := sch, forever := f } ∧
        fetch { s with rx := s.rx ++ bs, schedule := sch, forever := f } = some j ∧
        step { s with rx := s.rx ++ bs, schedule := sch, forever := f } =
          exec j { s with rx := s.rx ++ bs, schedule := sch', forever := f' })

/-- 70_reset_and_hazards.md (R123), 10_state.md (R15): the reset value of every element of the state, whatever the
configuration and the FIFO's content at launch. -/
def Obligations.ResetSetsEveryElement : Prop :=
  ∀ (c : Config) (rx : List Byte),
    (State.resetWith c rx).eng = .idle ∧ (State.resetWith c rx).cur = none ∧
    (State.resetWith c rx).frState = .idle ∧ (State.resetWith c rx).frBuf = [] ∧
    (State.resetWith c rx).ngPhase = .idle ∧ (State.resetWith c rx).ngCollected = [] ∧
    (State.resetWith c rx).upActive = false ∧ (State.resetWith c rx).connected = false ∧
    (State.resetWith c rx).matched = none ∧
    (State.resetWith c rx).slots.length = c.numSlots ∧
    (∀ i, i < c.numSlots →
      (State.resetWith c rx).slots[i]? = some { name := none, data := none, size := 0, status := .empty }) ∧
    (State.resetWith c rx).queue = [] ∧ (State.resetWith c rx).tx = [] ∧ (State.resetWith c rx).resp = [] ∧
    (State.resetWith c rx).rx = rx ∧ (State.resetWith c rx).cfg = c

/-- The invariant of 10_state.md (R18 to R27) holds right after reset, with every legal configuration and every content of the
FIFO, and so in the machine's reset state. -/
def Obligations.InvariantHoldsAtReset : Prop :=
  (∀ (c : Config) (rx : List Byte), c.Legal → (State.resetWith c rx).Inv) ∧ State.reset.Inv

/-- 10_state.md (R18 to R22, R25, R27, R30): every step keeps the invariant. -/
def Obligations.EveryStepKeepsTheInvariant : Prop :=
  ∀ (s t : State), s.Inv → step s = .next t → t.Inv

/-- 00_scope.md (R8), 43_command_builder.md (R91): every step keeps every frame sent in the wire format of §6, `F0`, bytes of
at most 0x7F, `F7`. -/
def Obligations.EveryFrameSentIsSevenBitClean : Prop :=
  ∀ (s t : State), s.Inv → s.FramesClean → step s = .next t → t.FramesClean

/-- 10_state.md (R30, R32), 00_scope.md (R7): no step rewrites what was sent or answered, each step adds at most one TX record
and at most one response, and no step writes the configuration. -/
def Obligations.SentAndAnsweredNeverChange : Prop :=
  ∀ (s t : State), step s = .next t →
    (t.tx = s.tx ∨ ∃ r, t.tx = s.tx ++ [r]) ∧ (t.resp = s.resp ∨ ∃ r, t.resp = s.resp ++ [r]) ∧ t.cfg = s.cfg

/-- 10_state.md (R18, R32): an operation ends exactly when its response is appended, and only a busy engine answers. -/
def Obligations.OneResponsePerOperation : Prop :=
  ∀ (s t : State), step s = .next t →
    (t.resp ≠ s.resp → s.eng = .busy ∧ t.eng = .idle ∧ t.cur = none) ∧
    (s.eng = .busy → t.eng = .idle → t.resp ≠ s.resp)

/-- 10_state.md (R22): a step writes the session only in the scan of a `NEG_DETECT`. -/
def Obligations.SessionIsWrittenOnlyByTheScan : Prop :=
  ∀ (s t : State), step s = .next t → (t.connected ≠ s.connected ∨ t.matched ≠ s.matched) →
    s.curOp = some 0x10 ∧ s.ngPhase = .scan

/-- 44_registry_queue.md (R99): every change of a slot's status in a step: to `Loaded` only by a `REG_ASSIGN` of it whose
storage answered `Ok`; to `Uploaded` only by an upload dispatch of it with non-empty data, connected, the write answered `Ok`;
to `Empty` only by a `REG_CLEAR` of it. -/
def Obligations.SlotStatusTransitions : Prop :=
  ∀ (s t : State) (i : Nat), step s = .next t → (t.slotAt i).status ≠ (s.slotAt i).status →
    ∃ q, s.cur = some q ∧
      (((t.slotAt i).status = .loaded ∧ q.op = 0x30 ∧ q.slot = i ∧ ∃ d, s.storageReply = some (.ok d)) ∨
        ((t.slotAt i).status = .uploaded ∧
          ((q.op = 0x31 ∧ q.slot = i) ∨ (q.op = 0x32 ∧ s.queue.head? = some i)) ∧
          (s.slotAt i).status ≠ .empty ∧ (∃ b d, (s.slotAt i).data = some (b :: d)) ∧
          s.connected = true ∧ s.sinkAnswer = .ok) ∨
        ((t.slotAt i).status = .empty ∧ q.op = 0x33 ∧ q.slot = i))

/-- 10_state.md (R26): a step changes slots only in a `REG_ASSIGN`, a `REG_UPLOAD_ONE`, a `REG_UPLOAD_ALL` or a `REG_CLEAR`,
and the two uploads leave name, data and size of every slot. -/
def Obligations.SlotsAreWrittenOnlyByRegistryOperations : Prop :=
  ∀ (s t : State), step s = .next t → t.slots ≠ s.slots →
    s.curOp = some 0x30 ∨ s.curOp = some 0x33 ∨
      ((s.curOp = some 0x31 ∨ s.curOp = some 0x32) ∧
        ∀ i, (t.slotAt i).name = (s.slotAt i).name ∧ (t.slotAt i).data = (s.slotAt i).data ∧
          (t.slotAt i).size = (s.slotAt i).size)

/-- 10_state.md (R27): a step changes the queue only by appending the slot of a `REG_ASSIGN` that is not queued, or by
removing the head in a pass of `REG_UPLOAD_ALL`. -/
def Obligations.QueueChangesOnlyByAssignAndPass : Prop :=
  ∀ (s t : State), step s = .next t → t.queue ≠ s.queue →
    ∃ q, s.cur = some q ∧
      ((q.op = 0x30 ∧ q.slot ∉ s.queue ∧ t.queue = s.queue ++ [q.slot]) ∨
        (q.op = 0x32 ∧ s.upActive = true ∧ ∃ h, s.queue = h :: t.queue))

/-- 43_command_builder.md (R92), 10_state.md (R30): while the session is not connected, the only frame a step sends is the
device inquiry of `NEG_DETECT`. -/
def Obligations.OnlyTheInquiryIsSentWhileDisconnected : Prop :=
  ∀ (s t : State), s.connected = false → step s = .next t → t.tx ≠ s.tx →
    s.curOp = some 0x10 ∧ ∃ r, t.tx = s.tx ++ [r] ∧ r.frame = [0xF0, 0x7E, 0x00, 0x06, 0x01, 0xF7]

/-- 60_exceptions.md (R112): a step that answers with a declined result changes nothing but the response, the end of the
operation, and the model's own turns to come. -/
def Obligations.DeclinedResultsHaveNoSideEffect : Prop :=
  ∀ (s t : State) (code : ResultCode) (v : ResponseValue), step s = .next t →
    t.resp = s.resp ++ [{ code := code, value := v }] → code.Declined →
    v = .none ∧ t = { s with resp := t.resp, cur := none, eng := .idle, schedule := t.schedule, forever := t.forever }

/-! ### FR, the framer -/

/-- R63: `FR_TRY` on an empty FIFO answers `NO_MESSAGE` at once and changes nothing else; in the drain it ends the drain
(R87). The end of the operation, and of the drain, in the same step is read from the spec (log entries 9 and 10). -/
def Obligations.FrTryOnAnEmptyFifo : Prop :=
  ∀ (s : State), s.frState = .idle → s.rx = [] →
    (s.curOp = some 0x01 → exec .frTry s =
      .next { s with resp := s.resp ++ [{ code := .noMessage, value := .none }], cur := none, eng := .idle }) ∧
    (s.curOp = some 0x10 → s.ngPhase = .drain → exec .negDetect s = .next { s with ngPhase := .scan })

/-- R64, R65, R66: a complete channel message: its three bytes leave the FIFO and `FR_TRY` answers `OK` with the message of
the status byte's class, its channel the low 4 bits, its two operand bytes as they are; the decode of those bytes is the
class's instruction, which has the same effect; nothing else changes. The drain discards the message. The end of the operation
in the same step is read from the spec (log entry 9). -/
def Obligations.ChannelMessagesAreDelivered : Prop :=
  ∀ (s : State) (h b1 b2 : Byte) (rest : List Byte), s.frState = .idle → s.rx = h :: b1 :: b2 :: rest →
    ∀ (i : Instr) (m : MidiMessage),
      ((h &&& 0xF0 = 0x90 ∧ i = .noteOn ((h &&& 0x0F).setWidth 4) (.complete b1 b2) ∧
          m = .noteOn ((h &&& 0x0F).setWidth 4) b1 b2) ∨
        (h &&& 0xF0 = 0x80 ∧ i = .noteOff ((h &&& 0x0F).setWidth 4) (.complete b1 b2) ∧
          m = .noteOff ((h &&& 0x0F).setWidth 4) b1 b2) ∨
        (h &&& 0xF0 = 0xB0 ∧ i = .controlChange ((h &&& 0x0F).setWidth 4) (.complete b1 b2) ∧
          m = .controlChange ((h &&& 0x0F).setWidth 4) b1 b2)) →
      decodeHead s.rx = .ok i ∧
      (s.curOp = some 0x01 →
        exec .frTry s = exec i s ∧
        exec i s = .next { s with rx := rest, resp := s.resp ++ [{ code := .ok, value := .message m }],
                                  cur := none, eng := .idle }) ∧
      (s.curOp = some 0x10 → s.ngPhase = .drain →
        exec .negDetect s = exec i s ∧ exec i s = .next { s with rx := rest })

/-- R67: with fewer than 3 bytes of a channel message in the FIFO nothing is removed: `FR_TRY` answers `NO_MESSAGE` and
changes nothing else, and the drain ends. The end of the operation, and of the drain, in the same step is read from the spec
(log entries 9 and 10). -/
def Obligations.IncompleteChannelMessagesStay : Prop :=
  ∀ (s : State) (h : Byte) (rest : List Byte), s.frState = .idle → s.rx = h :: rest → s.rx.length < 3 →
    ∀ (i : Instr),
      ((h &&& 0xF0 = 0x90 ∧ i = .noteOn ((h &&& 0x0F).setWidth 4) .incomplete) ∨
        (h &&& 0xF0 = 0x80 ∧ i = .noteOff ((h &&& 0x0F).setWidth 4) .incomplete) ∨
        (h &&& 0xF0 = 0xB0 ∧ i = .controlChange ((h &&& 0x0F).setWidth 4) .incomplete)) →
      decodeHead s.rx = .ok i ∧
      (s.curOp = some 0x01 →
        exec .frTry s = exec i s ∧
        exec i s =
          .next { s with resp := s.resp ++ [{ code := .noMessage, value := .none }], cur := none, eng := .idle }) ∧
      (s.curOp = some 0x10 → s.ngPhase = .drain →
        exec .negDetect s = exec i s ∧ exec i s = .next { s with ngPhase := .scan })

/-- R70: a head byte of a dropped class is removed alone: `FR_TRY` answers `NO_MESSAGE`, the drain goes on, nothing else
changes; this is the meaning of the head rows that drop (named by `Instr.Drops`), and one of them is decoded. The end of the
operation in the same step is read from the spec (log entry 9). -/
def Obligations.DroppedBytesAreConsumedAlone : Prop :=
  ∀ (s : State) (h : Byte) (rest : List Byte), s.frState = .idle → s.rx = h :: rest →
    (h ≤ 0x7F ∨ (0xA0 ≤ h ∧ h ≤ 0xAF) ∨ (0xC0 ≤ h ∧ h ≤ 0xEF) ∨ 0xF1 ≤ h) →
    (∃ i : Instr, decodeHead s.rx = .ok i ∧ i.Drops) ∧
    (∀ i : Instr, i.Drops →
      (s.curOp = some 0x01 →
        exec .frTry s = exec i s ∧
        exec i s = .next { s with rx := rest, resp := s.resp ++ [{ code := .noMessage, value := .none }],
                                  cur := none, eng := .idle }) ∧
      (s.curOp = some 0x10 → s.ngPhase = .drain →
        exec .negDetect s = exec i s ∧ exec i s = .next { s with rx := rest }))

/-- R71: `F0` at the head starts a capture, on `F0` alone: it leaves the FIFO, the buffer is emptied, and no operation ends. -/
def Obligations.SysExStartBeginsACapture : Prop :=
  ∀ (s : State) (rest : List Byte), s.frState = .idle → s.rx = 0xF0 :: rest →
    decodeHead s.rx = .ok .sysexStart ∧
    exec .sysexStart s = .next { s with rx := rest, frState := .capture, frBuf := [] } ∧
    exec .frTry s = exec .sysexStart s ∧ (s.ngPhase = .drain → exec .negDetect s = exec .sysexStart s)

/-- R72: in a capture every byte but `F7` is stored in the buffer, whatever its value, and nothing else changes; and with an
empty FIFO the engine has no step. -/
def Obligations.CaptureStoresEveryByteButF7 : Prop :=
  ∀ (s : State), s.frState = .capture →
    (∀ (b : Byte) (rest : List Byte), s.rx = b :: rest → b ≠ 0xF7 →
      ∃ i : Instr, decodeCapture s.rx = .ok i ∧ i.stored = some b ∧
        exec i s = .next { s with rx := rest, frBuf := s.frBuf ++ [b] } ∧ exec .frTry s = exec i s) ∧
    (s.rx = [] → fetch s = none)

/-- 30_encoding.md section 1 (R48), 40_framer.md (R72): every capture row that stores a byte has the effect of storing its
byte, for every value of its free bits. -/
def Obligations.CaptureRowsStoreTheirByte : Prop :=
  ∀ (s : State) (b : Byte) (rest : List Byte) (i : Instr), s.rx = b :: rest → i.stored = some b →
    decodeCapture s.rx = .ok i ∧ exec i s = .next { s with rx := rest, frBuf := s.frBuf ++ [b] }

/-- R73: `F7` ends the frame: it leaves the FIFO, the buffer is emptied, the framer is idle, and the payload is delivered: as
`OK` with `SysEx` by `FR_TRY`, into the collected payloads by the drain; nothing else changes. The end of the operation in the
same step is read from the spec (log entry 9). -/
def Obligations.CaptureEndDeliversThePayload : Prop :=
  ∀ (s : State) (rest : List Byte), s.frState = .capture → s.rx = 0xF7 :: rest →
    decodeCapture s.rx = .ok .capEnd ∧
    (s.curOp = some 0x01 →
      exec .frTry s = exec .capEnd s ∧
      exec .capEnd s =
        .next { s with rx := rest, frState := .idle, frBuf := [],
                       resp := s.resp ++ [{ code := .ok, value := .message (.sysEx s.frBuf) }],
                       cur := none, eng := .idle }) ∧
    (s.curOp = some 0x10 → s.ngPhase = .drain →
      exec .negDetect s = exec .capEnd s ∧
      exec .capEnd s =
        .next { s with rx := rest, frState := .idle, frBuf := [], ngCollected := s.ngCollected ++ [s.frBuf] })

/-- 40_framer.md (R60, R71 to R73): a whole SysEx frame in the FIFO: `FR_TRY` takes `2 + k` steps and consumes exactly the
frame's `2 + k` bytes, answers `OK` with its payload, and changes nothing else. With no turn scheduled the machine moves by
itself (log entry 2); the division into steps where the spec gives none is log entries 9 and 10. -/
def Obligations.WholeSysExFrameIsDelivered : Prop :=
  ∀ (s : State) (q : Request) (p rest : List Byte), s.Alone → s.Running q → q.op = 0x01 → s.frState = .idle →
    s.frBuf = [] → s.rx = 0xF0 :: p ++ 0xF7 :: rest → 0xF7 ∉ p →
    run (2 + p.length) s =
      .next { s with rx := rest, resp := s.resp ++ [{ code := .ok, value := .message (.sysEx p) }],
                     cur := none, eng := .idle }

/-- 40_framer.md (R75): no instruction of the framer (`FR_TRY`, a head byte, a capture byte) writes a slot, the queue, the
session or TX state, or draws an answer of the environment. -/
def Obligations.FramerTouchesNoOtherComponent : Prop :=
  ∀ (i : Instr) (s : State), i.OfFramer →
    ∃ t, exec i s = .next t ∧ t.cfg = s.cfg ∧ t.slots = s.slots ∧ t.queue = s.queue ∧ t.connected = s.connected ∧
      t.matched = s.matched ∧ t.tx = s.tx ∧ t.upActive = s.upActive ∧ t.storageReply = s.storageReply ∧
      t.schedule = s.schedule ∧ t.forever = s.forever ∧ t.sinkNext = s.sinkNext ∧ t.storageNext = s.storageNext ∧ t.draws = s.draws ∧
      t.rx <:+ s.rx

/-! ### C7, the codec -/

/-- R76: `ENC7` is the closed form: output byte `j` is the packing of bits `7j` to `7j+6` of the input's bit stream, bit 7 of
every output byte is 0, and the operation answers `OK` with it and changes nothing else. The end of the operation in the same
step is read from the spec (log entry 9). -/
def Obligations.Enc7IsTheSevenBitGroups : Prop :=
  ∀ (d : List Byte) (s : State),
    enc7 d = (List.range (8 * d.length / 7)).map (fun j => pack (((bits8 d).drop (7 * j)).take 7)) ∧
    (∀ b ∈ enc7 d, b ≤ 0x7F#8) ∧
    exec (.enc7 d) s =
      .next { s with resp := s.resp ++ [{ code := .ok, value := .bytes (enc7 d) }], cur := none, eng := .idle }

/-- R77: the length of `ENC7(d)` is `floor(8n/7)`, the bits it drops number `8n mod 7`, and none is dropped exactly when `n`
is a multiple of 7. -/
def Obligations.Enc7LengthAndLoss : Prop :=
  ∀ (d : List Byte), (enc7 d).length = 8 * d.length / 7 ∧
    (bits8 d).length - 7 * (enc7 d).length = 8 * d.length % 7 ∧
    ((bits8 d).length = 7 * (enc7 d).length ↔ d.length % 7 = 0)

/-- R78: on a sequence of data bytes `DEC7` is the closed form: output byte `i` is the packing of bits `8i` to `8i+7` of the
input's 7-bit stream, and the operation answers `OK` with it and changes nothing else. The end of the operation in the same
step is read from the spec (log entry 9). -/
def Obligations.Dec7IsTheEightBitGroups : Prop :=
  ∀ (e : List Byte) (s : State), (∀ b ∈ e, b ≤ 0x7F#8) →
    dec7 e = (List.range (7 * e.length / 8)).map (fun i => pack (((bits7 e).drop (8 * i)).take 8)) ∧
    exec (.dec7 e) s =
      .next { s with resp := s.resp ++ [{ code := .ok, value := .bytes (dec7 e) }], cur := none, eng := .idle }

/-- 41_codec.md (R79): with a byte above 0x7F `DEC7` still answers `OK`, with `floor(7m/8)` bytes of any value; nothing else
changes but the model's own draw counter (log entry 5). The end of the operation in the same step is read from the spec (log
entry 9). -/
def Obligations.Dec7OfOtherBytesHasItsLength : Prop :=
  ∀ (e : List Byte) (s : State), ¬ (∀ b ∈ e, b ≤ 0x7F#8) →
    ∃ v : List Byte, v.length = 7 * e.length / 8 ∧
      exec (.dec7 e) s =
        .next { s with resp := s.resp ++ [{ code := .ok, value := .bytes v }], cur := none, eng := .idle,
                       draws := s.draws + 1 }

/-- 41_codec.md (R81): decoding what was encoded gives the bytes back where their number is a multiple of 7, and all but the
last one otherwise. -/
def Obligations.DecodeAfterEncodeLosesTheTrailingGroup : Prop :=
  ∀ (d : List Byte), dec7 (enc7 d) = if d.length % 7 = 0 then d else d.take (d.length - 1)

/-- 41_codec.md (R82): encoding what was decoded gives the data bytes back where their number is a multiple of 8, and all but
the last one otherwise. -/
def Obligations.EncodeAfterDecodeLosesTheLastByte : Prop :=
  ∀ (e : List Byte), (∀ b ∈ e, b ≤ 0x7F#8) →
    enc7 (dec7 e) = if e.length % 8 = 0 then e else e.take (e.length - 1)

/-- 41_codec.md (R83): the codec works in blocks of 7 and of 8 bytes, so an upload of 224 bytes or more carries exactly the
encoding of the first 224. -/
def Obligations.CodecBlockStructure : Prop :=
  (∀ d1 d2 : List Byte, d1.length % 7 = 0 → enc7 (d1 ++ d2) = enc7 d1 ++ enc7 d2) ∧
  (∀ e1 e2 : List Byte, e1.length % 8 = 0 → dec7 (e1 ++ e2) = dec7 e1 ++ dec7 e2) ∧
  (∀ d : List Byte, 224 ≤ d.length → (enc7 d).take 256 = enc7 (d.take 224))

/-! ### NG, the negotiator -/

/-- R85, R53: the first step of `NEG_DETECT` sends the inquiry `F0 7E 00 06 01 F7`: on `Ok` the settle wait begins; on
`IoError` the operation ends with `IO_ERROR`, and nothing is drained nor the session written. -/
def Obligations.InquiryIsSentFirst : Prop :=
  ∀ (s : State), s.curOp = some 0x10 → s.ngPhase = .idle →
    (s.sinkAnswer = .ok → exec .negDetect s =
      .next { s.sinkTaken with
        tx := s.tx ++ [{ frame := [0xF0, 0x7E, 0x00, 0x06, 0x01, 0xF7], answer := .ok,
                         emitted := [0xF0, 0x7E, 0x00, 0x06, 0x01, 0xF7] }],
        ngPhase := .settle }) ∧
    (∀ k, s.sinkAnswer = .ioError k → exec .negDetect s =
      .next { s.sinkTaken with
        tx := s.tx ++ [{ frame := [0xF0, 0x7E, 0x00, 0x06, 0x01, 0xF7], answer := .ioError,
                         emitted := ([0xF0, 0x7E, 0x00, 0x06, 0x01, 0xF7] : List Byte).take k }],
        resp := s.resp ++ [{ code := .ioError, value := .none }], cur := none, eng := .idle })

/-- R88: the scan, one step: a collected payload of at least 3 bytes whose first three are `MFR_ID` sets the session and gives
`OK`; without one the result is `NOT_FOUND`, `S.matched` stays, and `S.connected` is cleared only with `NEG_CLEAR_ON_MISS`; in
every case nothing is collected any more and the phase is `NG_IDLE`; nothing else changes. -/
def Obligations.ScanSetsTheSession : Prop :=
  ∀ (s : State), s.curOp = some 0x10 → s.ngPhase = .scan →
    ((∃ p ∈ s.ngCollected, 3 ≤ p.length ∧ p.take 3 = s.cfg.mfrId) → exec .negDetect s =
      .next { s with connected := true, matched := some s.cfg.mfrId, ngCollected := [], ngPhase := .idle,
                     resp := s.resp ++ [{ code := .ok, value := .none }], cur := none, eng := .idle }) ∧
    ((∀ p ∈ s.ngCollected, ¬ (3 ≤ p.length ∧ p.take 3 = s.cfg.mfrId)) → exec .negDetect s =
      .next { s with connected := if s.cfg.negClearOnMiss then false else s.connected, ngCollected := [],
                     ngPhase := .idle,
                     resp := s.resp ++ [{ code := .notFound, value := .none }], cur := none, eng := .idle })

/-- 42_negotiator.md (R87, R88, R90): a drain that finds one SysEx frame in the FIFO ends after `k + 4` steps with the FIFO
empty; the result is `OK`, and the session is set to connected with `MFR_ID`, exactly when the payload starts with `MFR_ID`;
otherwise the result is `NOT_FOUND`, `S.matched` stays, and `S.connected` stays as it was unless `NEG_CLEAR_ON_MISS` clears it
(so a session that was connected may stay so on a miss, R89). With no
turn scheduled the machine moves by itself (log entry 2); the division into steps where the spec gives none is log entries 9
and 10. -/
def Obligations.DetectionFollowsTheFirstThreeBytes : Prop :=
  ∀ (s : State) (q : Request) (p : List Byte), s.Alone → s.Running q → q.op = 0x10 → s.frState = .idle → s.frBuf = [] →
    s.ngPhase = .drain → s.ngCollected = [] → s.rx = 0xF0 :: p ++ [0xF7] → 0xF7 ∉ p →
    ((p.take 3 = s.cfg.mfrId) → run (p.length + 4) s =
      .next { s with rx := [], connected := true, matched := some s.cfg.mfrId, ngPhase := .idle,
                     resp := s.resp ++ [{ code := .ok, value := .none }], cur := none, eng := .idle }) ∧
    ((p.take 3 ≠ s.cfg.mfrId) → run (p.length + 4) s =
      .next { s with rx := [], connected := if s.cfg.negClearOnMiss then false else s.connected, ngPhase := .idle,
                     resp := s.resp ++ [{ code := .notFound, value := .none }], cur := none, eng := .idle })

/-! ### CB, the command builder -/

/-- R92: while the session is not connected each of the three CB commands is declined, sends no byte and writes no state:
`CB_QUERY` of a slot in range, `CB_SAVE`, and the upload of a slot with usable data by `REG_UPLOAD_ONE` answer
`DECLINED_NOT_CONNECTED`. The end of the operation in the same step is read from the spec (log entry 9). -/
def Obligations.CommandsAreDeclinedWhileDisconnected : Prop :=
  ∀ (s t : State) (i j : Nat) (b : Byte) (d : List Byte), s.connected = false → i < s.cfg.numSlots →
    t = { s with resp := s.resp ++ [{ code := .declinedNotConnected, value := .none }], cur := none, eng := .idle } →
    exec (.cbQuery i) s = .next t ∧ exec .cbSave s = .next t ∧
    (j < s.cfg.numSlots → (s.slotAt j).status ≠ .empty → (s.slotAt j).data = some (b :: d) →
      exec (.regUploadOne j) s = .next t)

/-- R95: `CB_QUERY(slot)`: out of range it is declined; connected, it writes `F0 MFR_ID DEVICE_ID 02 (slot & 0xFF) F7`, 8
bytes, and answers `OK` or `IO_ERROR` by the sink's answer (on `IoError` with the part of the frame that reached the wire,
R30); nothing else changes. The end of the operation in the same step is read from the spec (log entry 9). -/
def Obligations.QuerySlotCommand : Prop :=
  ∀ (s : State) (i : Nat) (f : List Byte),
    f = [0xF0] ++ s.cfg.mfrId ++ [s.cfg.deviceId, 0x02, BitVec.ofNat 8 i, 0xF7] →
    (s.cfg.WellFormed → f.length = 8) ∧
    (¬ i < s.cfg.numSlots → exec (.cbQuery i) s =
      .next { s with resp := s.resp ++ [{ code := .declinedRange, value := .none }], cur := none, eng := .idle }) ∧
    (i < s.cfg.numSlots → s.connected = false → exec (.cbQuery i) s =
      .next { s with resp := s.resp ++ [{ code := .declinedNotConnected, value := .none }], cur := none,
                     eng := .idle }) ∧
    (i < s.cfg.numSlots → s.connected = true → s.sinkAnswer = .ok → exec (.cbQuery i) s =
      .next { s.sinkTaken with
        tx := s.tx ++ [{ frame := f, answer := .ok, emitted := f }],
        resp := s.resp ++ [{ code := .ok, value := .none }], cur := none, eng := .idle }) ∧
    (∀ k, i < s.cfg.numSlots → s.connected = true → s.sinkAnswer = .ioError k → exec (.cbQuery i) s =
      .next { s.sinkTaken with
        tx := s.tx ++ [{ frame := f, answer := .ioError, emitted := f.take k }],
        resp := s.resp ++ [{ code := .ioError, value := .none }], cur := none, eng := .idle })

/-- R96: `CB_SAVE()`: declined while not connected; else it writes `F0 MFR_ID DEVICE_ID 03 F7`, 7 bytes, and answers `OK` or
`IO_ERROR` by the sink's answer; nothing else changes. The end of the operation in the same step is read from the spec (log
entry 9). -/
def Obligations.SaveProjectCommand : Prop :=
  ∀ (s : State) (f : List Byte), f = [0xF0] ++ s.cfg.mfrId ++ [s.cfg.deviceId, 0x03, 0xF7] →
    (s.cfg.WellFormed → f.length = 7) ∧
    (s.connected = false → exec .cbSave s =
      .next { s with resp := s.resp ++ [{ code := .declinedNotConnected, value := .none }], cur := none,
                     eng := .idle }) ∧
    (s.connected = true → s.sinkAnswer = .ok → exec .cbSave s =
      .next { s.sinkTaken with
        tx := s.tx ++ [{ frame := f, answer := .ok, emitted := f }],
        resp := s.resp ++ [{ code := .ok, value := .none }], cur := none, eng := .idle }) ∧
    (∀ k, s.connected = true → s.sinkAnswer = .ioError k → exec .cbSave s =
      .next { s.sinkTaken with
        tx := s.tx ++ [{ frame := f, answer := .ioError, emitted := f.take k }],
        resp := s.resp ++ [{ code := .ioError, value := .none }], cur := none, eng := .idle })

/-- 30_encoding.md section 2 (R51 to R53), 43_command_builder.md (R95, R96), 42_negotiator.md (R85): the rows of the outbound
frames that end in one operation are run for the operation that sends them (log entry 12, the model's choice): each writes its
own bytes and ends, or goes on, as that operation does. -/
def Obligations.FrameRowsAreTheirOperations : Prop :=
  ∀ (s : State) (b : Byte),
    exec (.cmdQuerySlot b) s = exec (.cbQuery b.toNat) s ∧ exec .cmdSaveProject s = exec .cbSave s ∧
    (s.ngPhase = .idle → exec .inquiry s = exec .negDetect s) ∧
    (s.sinkAnswer = .ok →
      (b.toNat < s.cfg.numSlots → s.connected = true → ∀ f, encode s.cfg (.cmdQuerySlot b) = .frame f →
        exec (.cmdQuerySlot b) s = .next { s.sinkTaken with
          tx := s.tx ++ [{ frame := f, answer := .ok, emitted := f }],
          resp := s.resp ++ [{ code := .ok, value := .none }], cur := none, eng := .idle }) ∧
      (s.connected = true → ∀ f, encode s.cfg .cmdSaveProject = .frame f →
        exec .cmdSaveProject s = .next { s.sinkTaken with
          tx := s.tx ++ [{ frame := f, answer := .ok, emitted := f }],
          resp := s.resp ++ [{ code := .ok, value := .none }], cur := none, eng := .idle }) ∧
      (∀ f, encode s.cfg .inquiry = .frame f →
        exec .inquiry s = .next { s.sinkTaken with
          tx := s.tx ++ [{ frame := f, answer := .ok, emitted := f }], ngPhase := .settle }))

/-- 43_command_builder.md (R94, R93, R92), 44_registry_queue.md (R101): the upload frame, sent for the slot of a
`REG_UPLOAD_ONE` or for the entry a pass has removed from the queue (log entry 12, the model's choice): not connected, it is
declined and nothing is sent; connected, one write of `F0 MFR_ID DEVICE_ID 01 slot payload F7`; on `Ok` the slot becomes
`Uploaded`, on `IoError` it stays as it is; the result ends a `REG_UPLOAD_ONE`, and a pass discards it. -/
def Obligations.UploadFrameIsSent : Prop :=
  ∀ (s : State) (b : Byte) (p f : List Byte),
    f = [0xF0] ++ s.cfg.mfrId ++ [s.cfg.deviceId, 0x01, b] ++ p ++ [0xF7] →
    (s.connected = false →
      (s.curOp = some 0x31 → exec (.cmdUploadSample b p) s =
        .next { s with resp := s.resp ++ [{ code := .declinedNotConnected, value := .none }], cur := none,
                       eng := .idle }) ∧
      (s.curOp = some 0x32 → exec (.cmdUploadSample b p) s = .next s)) ∧
    (s.connected = true → s.sinkAnswer = .ok →
      (s.curOp = some 0x31 → exec (.cmdUploadSample b p) s =
        .next { s.sinkTaken with
          slots := s.slots.set b.toNat { s.slotAt b.toNat with status := .uploaded },
          tx := s.tx ++ [{ frame := f, answer := .ok, emitted := f }],
          resp := s.resp ++ [{ code := .ok, value := .none }], cur := none, eng := .idle }) ∧
      (s.curOp = some 0x32 → exec (.cmdUploadSample b p) s =
        .next { s.sinkTaken with
          slots := s.slots.set b.toNat { s.slotAt b.toNat with status := .uploaded },
          tx := s.tx ++ [{ frame := f, answer := .ok, emitted := f }] })) ∧
    (∀ k, s.connected = true → s.sinkAnswer = .ioError k →
      (s.curOp = some 0x31 → exec (.cmdUploadSample b p) s =
        .next { s.sinkTaken with
          tx := s.tx ++ [{ frame := f, answer := .ioError, emitted := f.take k }],
          resp := s.resp ++ [{ code := .ioError, value := .none }], cur := none, eng := .idle }) ∧
      (s.curOp = some 0x32 → exec (.cmdUploadSample b p) s =
        .next { s.sinkTaken with tx := s.tx ++ [{ frame := f, answer := .ioError, emitted := f.take k }] }))

/-- 43_command_builder.md (R98): two uploads of one slot with the same data and configuration write the same bytes, whatever
else differs between the two states. -/
def Obligations.SameDataGivesTheSameFrame : Prop :=
  ∀ (s s' t t' : State) (i : Nat) (b : Byte) (d : List Byte), s.cfg.WellFormed → s.cfg = s'.cfg →
    i < s.cfg.numSlots → s.connected = true → s'.connected = true →
    (s.slotAt i).data = some (b :: d) → (s'.slotAt i).data = some (b :: d) →
    (s.slotAt i).status ≠ .empty → (s'.slotAt i).status ≠ .empty →
    exec (.regUploadOne i) s = .next t → exec (.regUploadOne i) s' = .next t' →
    ∃ r r', t.tx = s.tx ++ [r] ∧ t'.tx = s'.tx ++ [r'] ∧ r.frame = r'.frame ∧
      r.frame.length = 8 + min 256 (8 * (d.length + 1) / 7)

/-! ### RQ, the registry and the queue -/

/-- 60_exceptions.md (R116, R112): every operation with a slot operand out of range answers `DECLINED_RANGE` and changes
nothing else, before any other check. The end of the operation in the same step is read from the spec (log entry 9). -/
def Obligations.OutOfRangeSlotsAreDeclined : Prop :=
  ∀ (s t : State) (n : Nat) (path : Path), s.cfg.numSlots ≤ n →
    t = { s with resp := s.resp ++ [{ code := .declinedRange, value := .none }], cur := none, eng := .idle } →
    exec (.regAssign n path) s = .next t ∧ exec (.regUploadOne n) s = .next t ∧ exec (.regClear n) s = .next t ∧
    exec (.cbQuery n) s = .next t ∧ exec (.rdSlot n) s = .next t

/-- R100: `REG_ASSIGN` of a slot in range, in two steps. The first reads the storage: its answer is held (log entry 8, the
model's field) and nothing else changes. The second ends the operation: on `IoError` with `STORAGE_ERROR`, slot and queue
unchanged; on `Ok` all four fields of the slot are written, and the slot is appended to the queue if it is not there. -/
def Obligations.AssignReadsThenStores : Prop :=
  ∀ (s : State) (i : Nat) (path : Path), i < s.cfg.numSlots →
    (s.storageReply = none → exec (.regAssign i path) s =
      .next { s.storageTaken with storageReply := some (s.storageAnswer path) }) ∧
    (s.storageReply = some .ioError → exec (.regAssign i path) s =
      .next { s with storageReply := none, resp := s.resp ++ [{ code := .storageError, value := .none }], cur := none,
                     eng := .idle }) ∧
    (∀ d, s.storageReply = some (.ok d) → exec (.regAssign i path) s =
      .next { s with
        storageReply := none,
        slots := s.slots.set i
          { name := some (deriveName s.cfg.nameRule path), data := some d, size := d.length, status := .loaded },
        queue := if i ∈ s.queue then s.queue else s.queue ++ [i],
        resp := s.resp ++ [{ code := .ok, value := .none }], cur := none, eng := .idle })

/-- 44_registry_queue.md (R101, R102), 60_exceptions.md (R116): `REG_UPLOAD_ONE` of a slot in range: without usable data it is
declined, before the connection is looked at; then, not connected, it is declined; else one write of the upload frame with
`take(ENC7(data), 256)`: on `Ok` the slot becomes `Uploaded` and the result is `OK`, on `IoError` the slot stays and the
result is `IO_ERROR`. The queue is neither read nor written. The end of the operation in the same step is read from the spec
(log entry 9). -/
def Obligations.UploadOneDispatchesTheSlot : Prop :=
  ∀ (s : State) (i : Nat), i < s.cfg.numSlots →
    (((s.slotAt i).status = .empty ∨ (s.slotAt i).data = none ∨ (s.slotAt i).data = some []) →
      exec (.regUploadOne i) s =
        .next { s with resp := s.resp ++ [{ code := .declinedEmpty, value := .none }], cur := none, eng := .idle }) ∧
    (∀ b d, (s.slotAt i).status ≠ .empty → (s.slotAt i).data = some (b :: d) →
      (s.connected = false → exec (.regUploadOne i) s =
        .next { s with resp := s.resp ++ [{ code := .declinedNotConnected, value := .none }], cur := none,
                       eng := .idle }) ∧
      (∀ f, f = [0xF0] ++ s.cfg.mfrId ++ [s.cfg.deviceId, 0x01, BitVec.ofNat 8 i] ++ (enc7 (b :: d)).take 256 ++ [0xF7] →
        (s.connected = true → s.sinkAnswer = .ok → exec (.regUploadOne i) s =
          .next { s.sinkTaken with
            slots := s.slots.set i { s.slotAt i with status := .uploaded },
            tx := s.tx ++ [{ frame := f, answer := .ok, emitted := f }],
            resp := s.resp ++ [{ code := .ok, value := .none }], cur := none, eng := .idle }) ∧
        (∀ k, s.connected = true → s.sinkAnswer = .ioError k → exec (.regUploadOne i) s =
          .next { s.sinkTaken with
            tx := s.tx ++ [{ frame := f, answer := .ioError, emitted := f.take k }],
            resp := s.resp ++ [{ code := .ioError, value := .none }], cur := none, eng := .idle })))

/-- 44_registry_queue.md (R101 to R103), 43_command_builder.md (R94): a `REG_UPLOAD_ONE` in progress of a slot with usable
data does what the upload frame of that slot and its encoded, capped data does. -/
def Obligations.UploadOneIsItsFrame : Prop :=
  ∀ (s : State) (i : Nat) (b : Byte) (d : List Byte), i < s.cfg.numSlots → s.cfg.numSlots ≤ 128 →
    s.curOp = some 0x31 → (s.slotAt i).status ≠ .empty → (s.slotAt i).data = some (b :: d) →
    exec (.regUploadOne i) s = exec (.cmdUploadSample (BitVec.ofNat 8 i) ((enc7 (b :: d)).take 256)) s

/-- 44_registry_queue.md (R103): the steps of `REG_UPLOAD_ALL`: it marks the pass; while the queue is not empty each step
removes the head and dispatches it (a slot without usable data, or any slot while not connected, changes nothing else; else
the upload frame is sent and the slot becomes `Uploaded` on `Ok`); with the queue empty the pass ends with `OK`. The end of
the operation in the same step is read from the spec (log entry 9). -/
def Obligations.UploadAllStepsThroughTheQueue : Prop :=
  ∀ (s : State),
    (s.upActive = false → exec .regUploadAll s = .next { s with upActive := true }) ∧
    (s.upActive = true → s.queue = [] → exec .regUploadAll s =
      .next { s with upActive := false, resp := s.resp ++ [{ code := .ok, value := .none }], cur := none,
                     eng := .idle }) ∧
    (∀ h rest, s.upActive = true → s.queue = h :: rest →
      (((s.slotAt h).status = .empty ∨ (s.slotAt h).data = none ∨ (s.slotAt h).data = some [] ∨ s.connected = false) →
        exec .regUploadAll s = .next { s with queue := rest }) ∧
      (∀ b d f, (s.slotAt h).status ≠ .empty → (s.slotAt h).data = some (b :: d) → s.connected = true →
        f = [0xF0] ++ s.cfg.mfrId ++ [s.cfg.deviceId, 0x01, BitVec.ofNat 8 h] ++ (enc7 (b :: d)).take 256 ++ [0xF7] →
        (s.sinkAnswer = .ok → exec .regUploadAll s =
          .next { s.sinkTaken with
            queue := rest, slots := s.slots.set h { s.slotAt h with status := .uploaded },
            tx := s.tx ++ [{ frame := f, answer := .ok, emitted := f }] }) ∧
        (∀ k, s.sinkAnswer = .ioError k → exec .regUploadAll s =
          .next { s.sinkTaken with
            queue := rest, tx := s.tx ++ [{ frame := f, answer := .ioError, emitted := f.take k }] })))

/-- 44_registry_queue.md (R109), 70_reset_and_hazards.md (R131): a pass, started with any queue, ends after one step for each
entry and two more: the queue is empty, the answer is the one response `OK`, every slot keeps name, data and size, only queued
slots may have become `Uploaded`, and while not connected nothing is sent and no slot changes. With no turn scheduled the
machine moves by itself (log entry 2); the division into steps where the spec gives none is log entries 9 and 10. -/
def Obligations.PassDrainsTheQueue : Prop :=
  ∀ (s : State) (q : Request), s.Inv → s.Alone → s.Running q → q.op = 0x32 → s.upActive = false →
    ∃ t, run (s.queue.length + 2) s = .next t ∧
      t.queue = [] ∧ t.upActive = false ∧ t.eng = .idle ∧ t.cur = none ∧
      t.resp = s.resp ++ [{ code := .ok, value := .none }] ∧
      (∀ i, (t.slotAt i).name = (s.slotAt i).name ∧ (t.slotAt i).data = (s.slotAt i).data ∧
        (t.slotAt i).size = (s.slotAt i).size ∧
        ((t.slotAt i).status = (s.slotAt i).status ∨ ((t.slotAt i).status = .uploaded ∧ i ∈ s.queue))) ∧
      (s.connected = false → t.tx = s.tx ∧ t.slots = s.slots) ∧
      t.tx.length ≤ s.tx.length + s.queue.length ∧
      t.connected = s.connected ∧ t.matched = s.matched ∧ t.rx = s.rx

/-- R104: `REG_CLEAR` of a slot in range clears its four fields and answers `OK`; the queue and all else stay; out of range it
is declined. -/
def Obligations.ClearEmptiesTheSlot : Prop :=
  ∀ (s : State) (i : Nat),
    (i < s.cfg.numSlots → exec (.regClear i) s =
      .next { s with
        slots := s.slots.set i { name := none, data := none, size := 0, status := .empty },
        resp := s.resp ++ [{ code := .ok, value := .none }], cur := none, eng := .idle }) ∧
    (¬ i < s.cfg.numSlots → exec (.regClear i) s =
      .next { s with resp := s.resp ++ [{ code := .declinedRange, value := .none }], cur := none, eng := .idle })

/-- R105, R106, R107: the reads answer `OK` with the four fields of the slot, with the session, with the queue, and write
nothing else; a slot out of range is declined. The end of the operation in the same step is read from the spec (log entry 9). -/
def Obligations.ReadsAnswerTheirElement : Prop :=
  ∀ (s : State) (i : Nat) (r : Slot),
    (i < s.cfg.numSlots → s.slots[i]? = some r → exec (.rdSlot i) s =
      .next { s with resp := s.resp ++ [{ code := .ok, value := .slot r }], cur := none, eng := .idle }) ∧
    (¬ i < s.cfg.numSlots → exec (.rdSlot i) s =
      .next { s with resp := s.resp ++ [{ code := .declinedRange, value := .none }], cur := none, eng := .idle }) ∧
    exec .rdSession s =
      .next { s with resp := s.resp ++ [{ code := .ok, value := .session s.connected s.matched }], cur := none,
                     eng := .idle } ∧
    exec .rdQueue s =
      .next { s with resp := s.resp ++ [{ code := .ok, value := .queue s.queue }], cur := none, eng := .idle }

/-- 60_exceptions.md (R111): the numeric values of the result codes. -/
def Obligations.ResultCodeValues : Prop :=
  (∀ c c' : ResultCode, c.value = c'.value → c = c') ∧
  ResultCode.value .ok = 0x00 ∧ ResultCode.value .noMessage = 0x01 ∧ ResultCode.value .notFound = 0x02 ∧
  ResultCode.value .declinedNotConnected = 0x10 ∧ ResultCode.value .declinedRange = 0x11 ∧
  ResultCode.value .declinedEmpty = 0x12 ∧ ResultCode.value .ioError = 0x20 ∧
  ResultCode.value .storageError = 0x21 ∧ ResultCode.value .illegalOp = 0x30

/-! ### The hang of the drain -/

/-- 70_reset_and_hazards.md (R130), 60_exceptions.md (R122): a source that pushes one or more bytes before every step of the
drain, again and again (here any bytes of a dropped class, R70), keeps `NEG_DETECT` from finishing, in a weakly fair run: after
any number of steps it is still in the drain and has answered nothing. The source alone does it: from the same state with no turn to come the drain consumes
the FIFO and the operation ends. That turns follow without end is a field of the model (`forever`, log entry 1); that the
machine moves by itself with none to come is log entry 2, and the number of steps rests on log entries 9 and 10. -/
def Obligations.ADrainCanBeFedForEver : Prop :=
  ∀ (s : State) (q : Request) (bs : List Byte), s.cfg.Legal → s.Running q → q.op = 0x10 → s.frState = .idle →
    s.ngPhase = .drain → s.schedule = [] → bs ≠ [] →
    (∀ b ∈ s.rx ++ bs, b ≤ 0x7F ∨ (0xA0 ≤ b ∧ b ≤ 0xAF) ∨ (0xC0 ≤ b ∧ b ≤ 0xEF) ∨ 0xF1 ≤ b) →
    (s.forever = .again (bs.map .rxPush) → ∀ n, ∃ t, run n s = .next t ∧
      t.eng = .busy ∧ t.cur = some q ∧ t.ngPhase = .drain ∧ t.resp = s.resp ∧ t.forever = s.forever) ∧
    (∃ t c, run (s.rx.length + 2) { s with forever := .rest } = .next t ∧
      t.eng = .idle ∧ t.cur = none ∧ t.rx = [] ∧ t.resp = s.resp ++ [{ code := c, value := .none }])

end
end

