-- ==== Sys2Proof/Laws/State.lean ====
section
/-! SUPPORT. One lemma per field per update of State: what each shared operation leaves in each field. -/

namespace Sys2Proof.Machine

/-! ### finish -/

@[simp] theorem finish_cfg (code : ResultCode) (v : ResponseValue) (s : State) : (s.finish code v).cfg = s.cfg := rfl
@[simp] theorem finish_eng (code : ResultCode) (v : ResponseValue) (s : State) : (s.finish code v).eng = .idle := rfl
@[simp] theorem finish_cur (code : ResultCode) (v : ResponseValue) (s : State) : (s.finish code v).cur = none := rfl
@[simp] theorem finish_frState (code : ResultCode) (v : ResponseValue) (s : State) : (s.finish code v).frState = s.frState := rfl
@[simp] theorem finish_frBuf (code : ResultCode) (v : ResponseValue) (s : State) : (s.finish code v).frBuf = s.frBuf := rfl
@[simp] theorem finish_ngPhase (code : ResultCode) (v : ResponseValue) (s : State) : (s.finish code v).ngPhase = s.ngPhase := rfl
@[simp] theorem finish_ngCollected (code : ResultCode) (v : ResponseValue) (s : State) : (s.finish code v).ngCollected = s.ngCollected := rfl
@[simp] theorem finish_upActive (code : ResultCode) (v : ResponseValue) (s : State) : (s.finish code v).upActive = s.upActive := rfl
@[simp] theorem finish_connected (code : ResultCode) (v : ResponseValue) (s : State) : (s.finish code v).connected = s.connected := rfl
@[simp] theorem finish_matched (code : ResultCode) (v : ResponseValue) (s : State) : (s.finish code v).matched = s.matched := rfl
@[simp] theorem finish_slots (code : ResultCode) (v : ResponseValue) (s : State) : (s.finish code v).slots = s.slots := rfl
@[simp] theorem finish_queue (code : ResultCode) (v : ResponseValue) (s : State) : (s.finish code v).queue = s.queue := rfl
@[simp] theorem finish_rx (code : ResultCode) (v : ResponseValue) (s : State) : (s.finish code v).rx = s.rx := rfl
@[simp] theorem finish_tx (code : ResultCode) (v : ResponseValue) (s : State) : (s.finish code v).tx = s.tx := rfl
@[simp] theorem finish_resp (code : ResultCode) (v : ResponseValue) (s : State) : (s.finish code v).resp = s.resp ++ [{ code := code, value := v }] := rfl
@[simp] theorem finish_storageReply (code : ResultCode) (v : ResponseValue) (s : State) : (s.finish code v).storageReply = s.storageReply := rfl
@[simp] theorem finish_schedule (code : ResultCode) (v : ResponseValue) (s : State) : (s.finish code v).schedule = s.schedule := rfl
@[simp] theorem finish_forever (code : ResultCode) (v : ResponseValue) (s : State) : (s.finish code v).forever = s.forever := rfl
@[simp] theorem finish_sinkNext (code : ResultCode) (v : ResponseValue) (s : State) : (s.finish code v).sinkNext = s.sinkNext := rfl
@[simp] theorem finish_storageNext (code : ResultCode) (v : ResponseValue) (s : State) : (s.finish code v).storageNext = s.storageNext := rfl
@[simp] theorem finish_draws (code : ResultCode) (v : ResponseValue) (s : State) : (s.finish code v).draws = s.draws := rfl

/-! ### rxDrop -/

@[simp] theorem rxDrop_cfg (k : Nat) (s : State) : (s.rxDrop k).cfg = s.cfg := rfl
@[simp] theorem rxDrop_eng (k : Nat) (s : State) : (s.rxDrop k).eng = s.eng := rfl
@[simp] theorem rxDrop_cur (k : Nat) (s : State) : (s.rxDrop k).cur = s.cur := rfl
@[simp] theorem rxDrop_frState (k : Nat) (s : State) : (s.rxDrop k).frState = s.frState := rfl
@[simp] theorem rxDrop_frBuf (k : Nat) (s : State) : (s.rxDrop k).frBuf = s.frBuf := rfl
@[simp] theorem rxDrop_ngPhase (k : Nat) (s : State) : (s.rxDrop k).ngPhase = s.ngPhase := rfl
@[simp] theorem rxDrop_ngCollected (k : Nat) (s : State) : (s.rxDrop k).ngCollected = s.ngCollected := rfl
@[simp] theorem rxDrop_upActive (k : Nat) (s : State) : (s.rxDrop k).upActive = s.upActive := rfl
@[simp] theorem rxDrop_connected (k : Nat) (s : State) : (s.rxDrop k).connected = s.connected := rfl
@[simp] theorem rxDrop_matched (k : Nat) (s : State) : (s.rxDrop k).matched = s.matched := rfl
@[simp] theorem rxDrop_slots (k : Nat) (s : State) : (s.rxDrop k).slots = s.slots := rfl
@[simp] theorem rxDrop_queue (k : Nat) (s : State) : (s.rxDrop k).queue = s.queue := rfl
@[simp] theorem rxDrop_rx (k : Nat) (s : State) : (s.rxDrop k).rx = s.rx.drop k := rfl
@[simp] theorem rxDrop_tx (k : Nat) (s : State) : (s.rxDrop k).tx = s.tx := rfl
@[simp] theorem rxDrop_resp (k : Nat) (s : State) : (s.rxDrop k).resp = s.resp := rfl
@[simp] theorem rxDrop_storageReply (k : Nat) (s : State) : (s.rxDrop k).storageReply = s.storageReply := rfl
@[simp] theorem rxDrop_schedule (k : Nat) (s : State) : (s.rxDrop k).schedule = s.schedule := rfl
@[simp] theorem rxDrop_forever (k : Nat) (s : State) : (s.rxDrop k).forever = s.forever := rfl
@[simp] theorem rxDrop_sinkNext (k : Nat) (s : State) : (s.rxDrop k).sinkNext = s.sinkNext := rfl
@[simp] theorem rxDrop_storageNext (k : Nat) (s : State) : (s.rxDrop k).storageNext = s.storageNext := rfl
@[simp] theorem rxDrop_draws (k : Nat) (s : State) : (s.rxDrop k).draws = s.draws := rfl

/-! ### rxPush -/

@[simp] theorem rxPush_cfg (b : Byte) (s : State) : (s.rxPush b).cfg = s.cfg := rfl
@[simp] theorem rxPush_eng (b : Byte) (s : State) : (s.rxPush b).eng = s.eng := rfl
@[simp] theorem rxPush_cur (b : Byte) (s : State) : (s.rxPush b).cur = s.cur := rfl
@[simp] theorem rxPush_frState (b : Byte) (s : State) : (s.rxPush b).frState = s.frState := rfl
@[simp] theorem rxPush_frBuf (b : Byte) (s : State) : (s.rxPush b).frBuf = s.frBuf := rfl
@[simp] theorem rxPush_ngPhase (b : Byte) (s : State) : (s.rxPush b).ngPhase = s.ngPhase := rfl
@[simp] theorem rxPush_ngCollected (b : Byte) (s : State) : (s.rxPush b).ngCollected = s.ngCollected := rfl
@[simp] theorem rxPush_upActive (b : Byte) (s : State) : (s.rxPush b).upActive = s.upActive := rfl
@[simp] theorem rxPush_connected (b : Byte) (s : State) : (s.rxPush b).connected = s.connected := rfl
@[simp] theorem rxPush_matched (b : Byte) (s : State) : (s.rxPush b).matched = s.matched := rfl
@[simp] theorem rxPush_slots (b : Byte) (s : State) : (s.rxPush b).slots = s.slots := rfl
@[simp] theorem rxPush_queue (b : Byte) (s : State) : (s.rxPush b).queue = s.queue := rfl
@[simp] theorem rxPush_rx (b : Byte) (s : State) : (s.rxPush b).rx = s.rx ++ [b] := rfl
@[simp] theorem rxPush_tx (b : Byte) (s : State) : (s.rxPush b).tx = s.tx := rfl
@[simp] theorem rxPush_resp (b : Byte) (s : State) : (s.rxPush b).resp = s.resp := rfl
@[simp] theorem rxPush_storageReply (b : Byte) (s : State) : (s.rxPush b).storageReply = s.storageReply := rfl
@[simp] theorem rxPush_schedule (b : Byte) (s : State) : (s.rxPush b).schedule = s.schedule := rfl
@[simp] theorem rxPush_forever (b : Byte) (s : State) : (s.rxPush b).forever = s.forever := rfl
@[simp] theorem rxPush_sinkNext (b : Byte) (s : State) : (s.rxPush b).sinkNext = s.sinkNext := rfl
@[simp] theorem rxPush_storageNext (b : Byte) (s : State) : (s.rxPush b).storageNext = s.storageNext := rfl
@[simp] theorem rxPush_draws (b : Byte) (s : State) : (s.rxPush b).draws = s.draws := rfl

/-! ### txPush -/

@[simp] theorem txPush_cfg (r : TxRecord) (s : State) : (s.txPush r).cfg = s.cfg := rfl
@[simp] theorem txPush_eng (r : TxRecord) (s : State) : (s.txPush r).eng = s.eng := rfl
@[simp] theorem txPush_cur (r : TxRecord) (s : State) : (s.txPush r).cur = s.cur := rfl
@[simp] theorem txPush_frState (r : TxRecord) (s : State) : (s.txPush r).frState = s.frState := rfl
@[simp] theorem txPush_frBuf (r : TxRecord) (s : State) : (s.txPush r).frBuf = s.frBuf := rfl
@[simp] theorem txPush_ngPhase (r : TxRecord) (s : State) : (s.txPush r).ngPhase = s.ngPhase := rfl
@[simp] theorem txPush_ngCollected (r : TxRecord) (s : State) : (s.txPush r).ngCollected = s.ngCollected := rfl
@[simp] theorem txPush_upActive (r : TxRecord) (s : State) : (s.txPush r).upActive = s.upActive := rfl
@[simp] theorem txPush_connected (r : TxRecord) (s : State) : (s.txPush r).connected = s.connected := rfl
@[simp] theorem txPush_matched (r : TxRecord) (s : State) : (s.txPush r).matched = s.matched := rfl
@[simp] theorem txPush_slots (r : TxRecord) (s : State) : (s.txPush r).slots = s.slots := rfl
@[simp] theorem txPush_queue (r : TxRecord) (s : State) : (s.txPush r).queue = s.queue := rfl
@[simp] theorem txPush_rx (r : TxRecord) (s : State) : (s.txPush r).rx = s.rx := rfl
@[simp] theorem txPush_tx (r : TxRecord) (s : State) : (s.txPush r).tx = s.tx ++ [r] := rfl
@[simp] theorem txPush_resp (r : TxRecord) (s : State) : (s.txPush r).resp = s.resp := rfl
@[simp] theorem txPush_storageReply (r : TxRecord) (s : State) : (s.txPush r).storageReply = s.storageReply := rfl
@[simp] theorem txPush_schedule (r : TxRecord) (s : State) : (s.txPush r).schedule = s.schedule := rfl
@[simp] theorem txPush_forever (r : TxRecord) (s : State) : (s.txPush r).forever = s.forever := rfl
@[simp] theorem txPush_sinkNext (r : TxRecord) (s : State) : (s.txPush r).sinkNext = s.sinkNext := rfl
@[simp] theorem txPush_storageNext (r : TxRecord) (s : State) : (s.txPush r).storageNext = s.storageNext := rfl
@[simp] theorem txPush_draws (r : TxRecord) (s : State) : (s.txPush r).draws = s.draws := rfl

/-! ### setSlot -/

@[simp] theorem setSlot_cfg (i : Nat) (v : Slot) (s : State) : (s.setSlot i v).cfg = s.cfg := rfl
@[simp] theorem setSlot_eng (i : Nat) (v : Slot) (s : State) : (s.setSlot i v).eng = s.eng := rfl
@[simp] theorem setSlot_cur (i : Nat) (v : Slot) (s : State) : (s.setSlot i v).cur = s.cur := rfl
@[simp] theorem setSlot_frState (i : Nat) (v : Slot) (s : State) : (s.setSlot i v).frState = s.frState := rfl
@[simp] theorem setSlot_frBuf (i : Nat) (v : Slot) (s : State) : (s.setSlot i v).frBuf = s.frBuf := rfl
@[simp] theorem setSlot_ngPhase (i : Nat) (v : Slot) (s : State) : (s.setSlot i v).ngPhase = s.ngPhase := rfl
@[simp] theorem setSlot_ngCollected (i : Nat) (v : Slot) (s : State) : (s.setSlot i v).ngCollected = s.ngCollected := rfl
@[simp] theorem setSlot_upActive (i : Nat) (v : Slot) (s : State) : (s.setSlot i v).upActive = s.upActive := rfl
@[simp] theorem setSlot_connected (i : Nat) (v : Slot) (s : State) : (s.setSlot i v).connected = s.connected := rfl
@[simp] theorem setSlot_matched (i : Nat) (v : Slot) (s : State) : (s.setSlot i v).matched = s.matched := rfl
@[simp] theorem setSlot_slots (i : Nat) (v : Slot) (s : State) : (s.setSlot i v).slots = s.slots.set i v := rfl
@[simp] theorem setSlot_queue (i : Nat) (v : Slot) (s : State) : (s.setSlot i v).queue = s.queue := rfl
@[simp] theorem setSlot_rx (i : Nat) (v : Slot) (s : State) : (s.setSlot i v).rx = s.rx := rfl
@[simp] theorem setSlot_tx (i : Nat) (v : Slot) (s : State) : (s.setSlot i v).tx = s.tx := rfl
@[simp] theorem setSlot_resp (i : Nat) (v : Slot) (s : State) : (s.setSlot i v).resp = s.resp := rfl
@[simp] theorem setSlot_storageReply (i : Nat) (v : Slot) (s : State) : (s.setSlot i v).storageReply = s.storageReply := rfl
@[simp] theorem setSlot_schedule (i : Nat) (v : Slot) (s : State) : (s.setSlot i v).schedule = s.schedule := rfl
@[simp] theorem setSlot_forever (i : Nat) (v : Slot) (s : State) : (s.setSlot i v).forever = s.forever := rfl
@[simp] theorem setSlot_sinkNext (i : Nat) (v : Slot) (s : State) : (s.setSlot i v).sinkNext = s.sinkNext := rfl
@[simp] theorem setSlot_storageNext (i : Nat) (v : Slot) (s : State) : (s.setSlot i v).storageNext = s.storageNext := rfl
@[simp] theorem setSlot_draws (i : Nat) (v : Slot) (s : State) : (s.setSlot i v).draws = s.draws := rfl

/-! ### setStatus -/

@[simp] theorem setStatus_cfg (i : Nat) (st : SlotStatus) (s : State) : (s.setStatus i st).cfg = s.cfg := rfl
@[simp] theorem setStatus_eng (i : Nat) (st : SlotStatus) (s : State) : (s.setStatus i st).eng = s.eng := rfl
@[simp] theorem setStatus_cur (i : Nat) (st : SlotStatus) (s : State) : (s.setStatus i st).cur = s.cur := rfl
@[simp] theorem setStatus_frState (i : Nat) (st : SlotStatus) (s : State) : (s.setStatus i st).frState = s.frState := rfl
@[simp] theorem setStatus_frBuf (i : Nat) (st : SlotStatus) (s : State) : (s.setStatus i st).frBuf = s.frBuf := rfl
@[simp] theorem setStatus_ngPhase (i : Nat) (st : SlotStatus) (s : State) : (s.setStatus i st).ngPhase = s.ngPhase := rfl
@[simp] theorem setStatus_ngCollected (i : Nat) (st : SlotStatus) (s : State) : (s.setStatus i st).ngCollected = s.ngCollected := rfl
@[simp] theorem setStatus_upActive (i : Nat) (st : SlotStatus) (s : State) : (s.setStatus i st).upActive = s.upActive := rfl
@[simp] theorem setStatus_connected (i : Nat) (st : SlotStatus) (s : State) : (s.setStatus i st).connected = s.connected := rfl
@[simp] theorem setStatus_matched (i : Nat) (st : SlotStatus) (s : State) : (s.setStatus i st).matched = s.matched := rfl
@[simp] theorem setStatus_slots (i : Nat) (st : SlotStatus) (s : State) : (s.setStatus i st).slots = s.slots.set i { s.slotAt i with status := st } := rfl
@[simp] theorem setStatus_queue (i : Nat) (st : SlotStatus) (s : State) : (s.setStatus i st).queue = s.queue := rfl
@[simp] theorem setStatus_rx (i : Nat) (st : SlotStatus) (s : State) : (s.setStatus i st).rx = s.rx := rfl
@[simp] theorem setStatus_tx (i : Nat) (st : SlotStatus) (s : State) : (s.setStatus i st).tx = s.tx := rfl
@[simp] theorem setStatus_resp (i : Nat) (st : SlotStatus) (s : State) : (s.setStatus i st).resp = s.resp := rfl
@[simp] theorem setStatus_storageReply (i : Nat) (st : SlotStatus) (s : State) : (s.setStatus i st).storageReply = s.storageReply := rfl
@[simp] theorem setStatus_schedule (i : Nat) (st : SlotStatus) (s : State) : (s.setStatus i st).schedule = s.schedule := rfl
@[simp] theorem setStatus_forever (i : Nat) (st : SlotStatus) (s : State) : (s.setStatus i st).forever = s.forever := rfl
@[simp] theorem setStatus_sinkNext (i : Nat) (st : SlotStatus) (s : State) : (s.setStatus i st).sinkNext = s.sinkNext := rfl
@[simp] theorem setStatus_storageNext (i : Nat) (st : SlotStatus) (s : State) : (s.setStatus i st).storageNext = s.storageNext := rfl
@[simp] theorem setStatus_draws (i : Nat) (st : SlotStatus) (s : State) : (s.setStatus i st).draws = s.draws := rfl

/-! ### setConnected -/

@[simp] theorem setConnected_cfg (s : State) : (s.setConnected).cfg = s.cfg := rfl
@[simp] theorem setConnected_eng (s : State) : (s.setConnected).eng = s.eng := rfl
@[simp] theorem setConnected_cur (s : State) : (s.setConnected).cur = s.cur := rfl
@[simp] theorem setConnected_frState (s : State) : (s.setConnected).frState = s.frState := rfl
@[simp] theorem setConnected_frBuf (s : State) : (s.setConnected).frBuf = s.frBuf := rfl
@[simp] theorem setConnected_ngPhase (s : State) : (s.setConnected).ngPhase = s.ngPhase := rfl
@[simp] theorem setConnected_ngCollected (s : State) : (s.setConnected).ngCollected = s.ngCollected := rfl
@[simp] theorem setConnected_upActive (s : State) : (s.setConnected).upActive = s.upActive := rfl
@[simp] theorem setConnected_connected (s : State) : (s.setConnected).connected = true := rfl
@[simp] theorem setConnected_matched (s : State) : (s.setConnected).matched = some s.cfg.mfrId := rfl
@[simp] theorem setConnected_slots (s : State) : (s.setConnected).slots = s.slots := rfl
@[simp] theorem setConnected_queue (s : State) : (s.setConnected).queue = s.queue := rfl
@[simp] theorem setConnected_rx (s : State) : (s.setConnected).rx = s.rx := rfl
@[simp] theorem setConnected_tx (s : State) : (s.setConnected).tx = s.tx := rfl
@[simp] theorem setConnected_resp (s : State) : (s.setConnected).resp = s.resp := rfl
@[simp] theorem setConnected_storageReply (s : State) : (s.setConnected).storageReply = s.storageReply := rfl
@[simp] theorem setConnected_schedule (s : State) : (s.setConnected).schedule = s.schedule := rfl
@[simp] theorem setConnected_forever (s : State) : (s.setConnected).forever = s.forever := rfl
@[simp] theorem setConnected_sinkNext (s : State) : (s.setConnected).sinkNext = s.sinkNext := rfl
@[simp] theorem setConnected_storageNext (s : State) : (s.setConnected).storageNext = s.storageNext := rfl
@[simp] theorem setConnected_draws (s : State) : (s.setConnected).draws = s.draws := rfl

/-! ### missConnected -/

@[simp] theorem missConnected_cfg (s : State) : (s.missConnected).cfg = s.cfg := by
  unfold State.missConnected; split <;> simp_all
@[simp] theorem missConnected_eng (s : State) : (s.missConnected).eng = s.eng := by
  unfold State.missConnected; split <;> simp_all
@[simp] theorem missConnected_cur (s : State) : (s.missConnected).cur = s.cur := by
  unfold State.missConnected; split <;> simp_all
@[simp] theorem missConnected_frState (s : State) : (s.missConnected).frState = s.frState := by
  unfold State.missConnected; split <;> simp_all
@[simp] theorem missConnected_frBuf (s : State) : (s.missConnected).frBuf = s.frBuf := by
  unfold State.missConnected; split <;> simp_all
@[simp] theorem missConnected_ngPhase (s : State) : (s.missConnected).ngPhase = s.ngPhase := by
  unfold State.missConnected; split <;> simp_all
@[simp] theorem missConnected_ngCollected (s : State) : (s.missConnected).ngCollected = s.ngCollected := by
  unfold State.missConnected; split <;> simp_all
@[simp] theorem missConnected_upActive (s : State) : (s.missConnected).upActive = s.upActive := by
  unfold State.missConnected; split <;> simp_all
@[simp] theorem missConnected_connected (s : State) : (s.missConnected).connected = (s.connected && !s.cfg.negClearOnMiss) := by
  unfold State.missConnected; split <;> simp_all
@[simp] theorem missConnected_matched (s : State) : (s.missConnected).matched = s.matched := by
  unfold State.missConnected; split <;> simp_all
@[simp] theorem missConnected_slots (s : State) : (s.missConnected).slots = s.slots := by
  unfold State.missConnected; split <;> simp_all
@[simp] theorem missConnected_queue (s : State) : (s.missConnected).queue = s.queue := by
  unfold State.missConnected; split <;> simp_all
@[simp] theorem missConnected_rx (s : State) : (s.missConnected).rx = s.rx := by
  unfold State.missConnected; split <;> simp_all
@[simp] theorem missConnected_tx (s : State) : (s.missConnected).tx = s.tx := by
  unfold State.missConnected; split <;> simp_all
@[simp] theorem missConnected_resp (s : State) : (s.missConnected).resp = s.resp := by
  unfold State.missConnected; split <;> simp_all
@[simp] theorem missConnected_storageReply (s : State) : (s.missConnected).storageReply = s.storageReply := by
  unfold State.missConnected; split <;> simp_all
@[simp] theorem missConnected_schedule (s : State) : (s.missConnected).schedule = s.schedule := by
  unfold State.missConnected; split <;> simp_all
@[simp] theorem missConnected_forever (s : State) : (s.missConnected).forever = s.forever := by
  unfold State.missConnected; split <;> simp_all
@[simp] theorem missConnected_sinkNext (s : State) : (s.missConnected).sinkNext = s.sinkNext := by
  unfold State.missConnected; split <;> simp_all
@[simp] theorem missConnected_storageNext (s : State) : (s.missConnected).storageNext = s.storageNext := by
  unfold State.missConnected; split <;> simp_all
@[simp] theorem missConnected_draws (s : State) : (s.missConnected).draws = s.draws := by
  unfold State.missConnected; split <;> simp_all

/-! ### ngReset -/

@[simp] theorem ngReset_cfg (s : State) : (ngReset s).cfg = s.cfg := rfl
@[simp] theorem ngReset_eng (s : State) : (ngReset s).eng = s.eng := rfl
@[simp] theorem ngReset_cur (s : State) : (ngReset s).cur = s.cur := rfl
@[simp] theorem ngReset_frState (s : State) : (ngReset s).frState = s.frState := rfl
@[simp] theorem ngReset_frBuf (s : State) : (ngReset s).frBuf = s.frBuf := rfl
@[simp] theorem ngReset_ngPhase (s : State) : (ngReset s).ngPhase = .idle := rfl
@[simp] theorem ngReset_ngCollected (s : State) : (ngReset s).ngCollected = [] := rfl
@[simp] theorem ngReset_upActive (s : State) : (ngReset s).upActive = s.upActive := rfl
@[simp] theorem ngReset_connected (s : State) : (ngReset s).connected = s.connected := rfl
@[simp] theorem ngReset_matched (s : State) : (ngReset s).matched = s.matched := rfl
@[simp] theorem ngReset_slots (s : State) : (ngReset s).slots = s.slots := rfl
@[simp] theorem ngReset_queue (s : State) : (ngReset s).queue = s.queue := rfl
@[simp] theorem ngReset_rx (s : State) : (ngReset s).rx = s.rx := rfl
@[simp] theorem ngReset_tx (s : State) : (ngReset s).tx = s.tx := rfl
@[simp] theorem ngReset_resp (s : State) : (ngReset s).resp = s.resp := rfl
@[simp] theorem ngReset_storageReply (s : State) : (ngReset s).storageReply = s.storageReply := rfl
@[simp] theorem ngReset_schedule (s : State) : (ngReset s).schedule = s.schedule := rfl
@[simp] theorem ngReset_forever (s : State) : (ngReset s).forever = s.forever := rfl
@[simp] theorem ngReset_sinkNext (s : State) : (ngReset s).sinkNext = s.sinkNext := rfl
@[simp] theorem ngReset_storageNext (s : State) : (ngReset s).storageNext = s.storageNext := rfl
@[simp] theorem ngReset_draws (s : State) : (ngReset s).draws = s.draws := rfl

/-! ### settleEnd -/

@[simp] theorem settleEnd_cfg (s : State) : (settleEnd s).cfg = s.cfg := rfl
@[simp] theorem settleEnd_eng (s : State) : (settleEnd s).eng = s.eng := rfl
@[simp] theorem settleEnd_cur (s : State) : (settleEnd s).cur = s.cur := rfl
@[simp] theorem settleEnd_frState (s : State) : (settleEnd s).frState = s.frState := rfl
@[simp] theorem settleEnd_frBuf (s : State) : (settleEnd s).frBuf = s.frBuf := rfl
@[simp] theorem settleEnd_ngPhase (s : State) : (settleEnd s).ngPhase = .drain := rfl
@[simp] theorem settleEnd_ngCollected (s : State) : (settleEnd s).ngCollected = s.ngCollected := rfl
@[simp] theorem settleEnd_upActive (s : State) : (settleEnd s).upActive = s.upActive := rfl
@[simp] theorem settleEnd_connected (s : State) : (settleEnd s).connected = s.connected := rfl
@[simp] theorem settleEnd_matched (s : State) : (settleEnd s).matched = s.matched := rfl
@[simp] theorem settleEnd_slots (s : State) : (settleEnd s).slots = s.slots := rfl
@[simp] theorem settleEnd_queue (s : State) : (settleEnd s).queue = s.queue := rfl
@[simp] theorem settleEnd_rx (s : State) : (settleEnd s).rx = s.rx := rfl
@[simp] theorem settleEnd_tx (s : State) : (settleEnd s).tx = s.tx := rfl
@[simp] theorem settleEnd_resp (s : State) : (settleEnd s).resp = s.resp := rfl
@[simp] theorem settleEnd_storageReply (s : State) : (settleEnd s).storageReply = s.storageReply := rfl
@[simp] theorem settleEnd_schedule (s : State) : (settleEnd s).schedule = s.schedule := rfl
@[simp] theorem settleEnd_forever (s : State) : (settleEnd s).forever = s.forever := rfl
@[simp] theorem settleEnd_sinkNext (s : State) : (settleEnd s).sinkNext = s.sinkNext := rfl
@[simp] theorem settleEnd_storageNext (s : State) : (settleEnd s).storageNext = s.storageNext := rfl
@[simp] theorem settleEnd_draws (s : State) : (settleEnd s).draws = s.draws := rfl

/-! ### accept -/

@[simp] theorem accept_cfg (q : Request) (s : State) : (s.accept q).cfg = s.cfg := rfl
@[simp] theorem accept_eng (q : Request) (s : State) : (s.accept q).eng = .busy := rfl
@[simp] theorem accept_cur (q : Request) (s : State) : (s.accept q).cur = some q := rfl
@[simp] theorem accept_frState (q : Request) (s : State) : (s.accept q).frState = s.frState := rfl
@[simp] theorem accept_frBuf (q : Request) (s : State) : (s.accept q).frBuf = s.frBuf := rfl
@[simp] theorem accept_ngPhase (q : Request) (s : State) : (s.accept q).ngPhase = s.ngPhase := rfl
@[simp] theorem accept_ngCollected (q : Request) (s : State) : (s.accept q).ngCollected = s.ngCollected := rfl
@[simp] theorem accept_upActive (q : Request) (s : State) : (s.accept q).upActive = s.upActive := rfl
@[simp] theorem accept_connected (q : Request) (s : State) : (s.accept q).connected = s.connected := rfl
@[simp] theorem accept_matched (q : Request) (s : State) : (s.accept q).matched = s.matched := rfl
@[simp] theorem accept_slots (q : Request) (s : State) : (s.accept q).slots = s.slots := rfl
@[simp] theorem accept_queue (q : Request) (s : State) : (s.accept q).queue = s.queue := rfl
@[simp] theorem accept_rx (q : Request) (s : State) : (s.accept q).rx = s.rx := rfl
@[simp] theorem accept_tx (q : Request) (s : State) : (s.accept q).tx = s.tx := rfl
@[simp] theorem accept_resp (q : Request) (s : State) : (s.accept q).resp = s.resp := rfl
@[simp] theorem accept_storageReply (q : Request) (s : State) : (s.accept q).storageReply = s.storageReply := rfl
@[simp] theorem accept_schedule (q : Request) (s : State) : (s.accept q).schedule = s.schedule := rfl
@[simp] theorem accept_forever (q : Request) (s : State) : (s.accept q).forever = s.forever := rfl
@[simp] theorem accept_sinkNext (q : Request) (s : State) : (s.accept q).sinkNext = s.sinkNext := rfl
@[simp] theorem accept_storageNext (q : Request) (s : State) : (s.accept q).storageNext = s.storageNext := rfl
@[simp] theorem accept_draws (q : Request) (s : State) : (s.accept q).draws = s.draws := rfl

/-! ### hold -/

@[simp] theorem hold_cfg (s : State) : (s.hold).cfg = s.cfg := rfl
@[simp] theorem hold_eng (s : State) : (s.hold).eng = s.eng := rfl
@[simp] theorem hold_cur (s : State) : (s.hold).cur = s.cur := rfl
@[simp] theorem hold_frState (s : State) : (s.hold).frState = s.frState := rfl
@[simp] theorem hold_frBuf (s : State) : (s.hold).frBuf = s.frBuf := rfl
@[simp] theorem hold_ngPhase (s : State) : (s.hold).ngPhase = s.ngPhase := rfl
@[simp] theorem hold_ngCollected (s : State) : (s.hold).ngCollected = s.ngCollected := rfl
@[simp] theorem hold_upActive (s : State) : (s.hold).upActive = s.upActive := rfl
@[simp] theorem hold_connected (s : State) : (s.hold).connected = s.connected := rfl
@[simp] theorem hold_matched (s : State) : (s.hold).matched = s.matched := rfl
@[simp] theorem hold_slots (s : State) : (s.hold).slots = s.slots := rfl
@[simp] theorem hold_queue (s : State) : (s.hold).queue = s.queue := rfl
@[simp] theorem hold_rx (s : State) : (s.hold).rx = s.rx := rfl
@[simp] theorem hold_tx (s : State) : (s.hold).tx = s.tx := rfl
@[simp] theorem hold_resp (s : State) : (s.hold).resp = s.resp := rfl
@[simp] theorem hold_storageReply (s : State) : (s.hold).storageReply = s.storageReply := rfl
@[simp] theorem hold_schedule (s : State) : (s.hold).schedule = s.schedule := rfl
@[simp] theorem hold_forever (s : State) : (s.hold).forever = s.forever := rfl
@[simp] theorem hold_sinkNext (s : State) : (s.hold).sinkNext = s.sinkNext := rfl
@[simp] theorem hold_storageNext (s : State) : (s.hold).storageNext = s.storageNext := rfl
@[simp] theorem hold_draws (s : State) : (s.hold).draws = s.draws := rfl

/-! ### sinkTaken -/

@[simp] theorem sinkTaken_cfg (s : State) : (s.sinkTaken).cfg = s.cfg := by
  unfold State.sinkTaken; split <;> simp_all
@[simp] theorem sinkTaken_eng (s : State) : (s.sinkTaken).eng = s.eng := by
  unfold State.sinkTaken; split <;> simp_all
@[simp] theorem sinkTaken_cur (s : State) : (s.sinkTaken).cur = s.cur := by
  unfold State.sinkTaken; split <;> simp_all
@[simp] theorem sinkTaken_frState (s : State) : (s.sinkTaken).frState = s.frState := by
  unfold State.sinkTaken; split <;> simp_all
@[simp] theorem sinkTaken_frBuf (s : State) : (s.sinkTaken).frBuf = s.frBuf := by
  unfold State.sinkTaken; split <;> simp_all
@[simp] theorem sinkTaken_ngPhase (s : State) : (s.sinkTaken).ngPhase = s.ngPhase := by
  unfold State.sinkTaken; split <;> simp_all
@[simp] theorem sinkTaken_ngCollected (s : State) : (s.sinkTaken).ngCollected = s.ngCollected := by
  unfold State.sinkTaken; split <;> simp_all
@[simp] theorem sinkTaken_upActive (s : State) : (s.sinkTaken).upActive = s.upActive := by
  unfold State.sinkTaken; split <;> simp_all
@[simp] theorem sinkTaken_connected (s : State) : (s.sinkTaken).connected = s.connected := by
  unfold State.sinkTaken; split <;> simp_all
@[simp] theorem sinkTaken_matched (s : State) : (s.sinkTaken).matched = s.matched := by
  unfold State.sinkTaken; split <;> simp_all
@[simp] theorem sinkTaken_slots (s : State) : (s.sinkTaken).slots = s.slots := by
  unfold State.sinkTaken; split <;> simp_all
@[simp] theorem sinkTaken_queue (s : State) : (s.sinkTaken).queue = s.queue := by
  unfold State.sinkTaken; split <;> simp_all
@[simp] theorem sinkTaken_rx (s : State) : (s.sinkTaken).rx = s.rx := by
  unfold State.sinkTaken; split <;> simp_all
@[simp] theorem sinkTaken_tx (s : State) : (s.sinkTaken).tx = s.tx := by
  unfold State.sinkTaken; split <;> simp_all
@[simp] theorem sinkTaken_resp (s : State) : (s.sinkTaken).resp = s.resp := by
  unfold State.sinkTaken; split <;> simp_all
@[simp] theorem sinkTaken_storageReply (s : State) : (s.sinkTaken).storageReply = s.storageReply := by
  unfold State.sinkTaken; split <;> simp_all
@[simp] theorem sinkTaken_schedule (s : State) : (s.sinkTaken).schedule = s.schedule := by
  unfold State.sinkTaken; split <;> simp_all
@[simp] theorem sinkTaken_forever (s : State) : (s.sinkTaken).forever = s.forever := by
  unfold State.sinkTaken; split <;> simp_all
@[simp] theorem sinkTaken_sinkNext (s : State) : (s.sinkTaken).sinkNext = s.sinkNext.tail := by
  unfold State.sinkTaken; split <;> simp_all
@[simp] theorem sinkTaken_storageNext (s : State) : (s.sinkTaken).storageNext = s.storageNext := by
  unfold State.sinkTaken; split <;> simp_all

/-! ### storageTaken -/

@[simp] theorem storageTaken_cfg (s : State) : (s.storageTaken).cfg = s.cfg := by
  unfold State.storageTaken; split <;> simp_all
@[simp] theorem storageTaken_eng (s : State) : (s.storageTaken).eng = s.eng := by
  unfold State.storageTaken; split <;> simp_all
@[simp] theorem storageTaken_cur (s : State) : (s.storageTaken).cur = s.cur := by
  unfold State.storageTaken; split <;> simp_all
@[simp] theorem storageTaken_frState (s : State) : (s.storageTaken).frState = s.frState := by
  unfold State.storageTaken; split <;> simp_all
@[simp] theorem storageTaken_frBuf (s : State) : (s.storageTaken).frBuf = s.frBuf := by
  unfold State.storageTaken; split <;> simp_all
@[simp] theorem storageTaken_ngPhase (s : State) : (s.storageTaken).ngPhase = s.ngPhase := by
  unfold State.storageTaken; split <;> simp_all
@[simp] theorem storageTaken_ngCollected (s : State) : (s.storageTaken).ngCollected = s.ngCollected := by
  unfold State.storageTaken; split <;> simp_all
@[simp] theorem storageTaken_upActive (s : State) : (s.storageTaken).upActive = s.upActive := by
  unfold State.storageTaken; split <;> simp_all
@[simp] theorem storageTaken_connected (s : State) : (s.storageTaken).connected = s.connected := by
  unfold State.storageTaken; split <;> simp_all
@[simp] theorem storageTaken_matched (s : State) : (s.storageTaken).matched = s.matched := by
  unfold State.storageTaken; split <;> simp_all
@[simp] theorem storageTaken_slots (s : State) : (s.storageTaken).slots = s.slots := by
  unfold State.storageTaken; split <;> simp_all
@[simp] theorem storageTaken_queue (s : State) : (s.storageTaken).queue = s.queue := by
  unfold State.storageTaken; split <;> simp_all
@[simp] theorem storageTaken_rx (s : State) : (s.storageTaken).rx = s.rx := by
  unfold State.storageTaken; split <;> simp_all
@[simp] theorem storageTaken_tx (s : State) : (s.storageTaken).tx = s.tx := by
  unfold State.storageTaken; split <;> simp_all
@[simp] theorem storageTaken_resp (s : State) : (s.storageTaken).resp = s.resp := by
  unfold State.storageTaken; split <;> simp_all
@[simp] theorem storageTaken_storageReply (s : State) : (s.storageTaken).storageReply = s.storageReply := by
  unfold State.storageTaken; split <;> simp_all
@[simp] theorem storageTaken_schedule (s : State) : (s.storageTaken).schedule = s.schedule := by
  unfold State.storageTaken; split <;> simp_all
@[simp] theorem storageTaken_forever (s : State) : (s.storageTaken).forever = s.forever := by
  unfold State.storageTaken; split <;> simp_all
@[simp] theorem storageTaken_sinkNext (s : State) : (s.storageTaken).sinkNext = s.sinkNext := by
  unfold State.storageTaken; split <;> simp_all
@[simp] theorem storageTaken_storageNext (s : State) : (s.storageTaken).storageNext = s.storageNext.tail := by
  unfold State.storageTaken; split <;> simp_all

/-! ### enqueue -/

@[simp] theorem enqueue_cfg (i : Nat) (s : State) : (s.enqueue i).cfg = s.cfg := by
  unfold State.enqueue; split <;> simp_all
@[simp] theorem enqueue_eng (i : Nat) (s : State) : (s.enqueue i).eng = s.eng := by
  unfold State.enqueue; split <;> simp_all
@[simp] theorem enqueue_cur (i : Nat) (s : State) : (s.enqueue i).cur = s.cur := by
  unfold State.enqueue; split <;> simp_all
@[simp] theorem enqueue_frState (i : Nat) (s : State) : (s.enqueue i).frState = s.frState := by
  unfold State.enqueue; split <;> simp_all
@[simp] theorem enqueue_frBuf (i : Nat) (s : State) : (s.enqueue i).frBuf = s.frBuf := by
  unfold State.enqueue; split <;> simp_all
@[simp] theorem enqueue_ngPhase (i : Nat) (s : State) : (s.enqueue i).ngPhase = s.ngPhase := by
  unfold State.enqueue; split <;> simp_all
@[simp] theorem enqueue_ngCollected (i : Nat) (s : State) : (s.enqueue i).ngCollected = s.ngCollected := by
  unfold State.enqueue; split <;> simp_all
@[simp] theorem enqueue_upActive (i : Nat) (s : State) : (s.enqueue i).upActive = s.upActive := by
  unfold State.enqueue; split <;> simp_all
@[simp] theorem enqueue_connected (i : Nat) (s : State) : (s.enqueue i).connected = s.connected := by
  unfold State.enqueue; split <;> simp_all
@[simp] theorem enqueue_matched (i : Nat) (s : State) : (s.enqueue i).matched = s.matched := by
  unfold State.enqueue; split <;> simp_all
@[simp] theorem enqueue_slots (i : Nat) (s : State) : (s.enqueue i).slots = s.slots := by
  unfold State.enqueue; split <;> simp_all
@[simp] theorem enqueue_queue (i : Nat) (s : State) : (s.enqueue i).queue = if i ∈ s.queue then s.queue else s.queue ++ [i] := by
  unfold State.enqueue; split <;> simp_all
@[simp] theorem enqueue_rx (i : Nat) (s : State) : (s.enqueue i).rx = s.rx := by
  unfold State.enqueue; split <;> simp_all
@[simp] theorem enqueue_tx (i : Nat) (s : State) : (s.enqueue i).tx = s.tx := by
  unfold State.enqueue; split <;> simp_all
@[simp] theorem enqueue_resp (i : Nat) (s : State) : (s.enqueue i).resp = s.resp := by
  unfold State.enqueue; split <;> simp_all
@[simp] theorem enqueue_storageReply (i : Nat) (s : State) : (s.enqueue i).storageReply = s.storageReply := by
  unfold State.enqueue; split <;> simp_all
@[simp] theorem enqueue_schedule (i : Nat) (s : State) : (s.enqueue i).schedule = s.schedule := by
  unfold State.enqueue; split <;> simp_all
@[simp] theorem enqueue_forever (i : Nat) (s : State) : (s.enqueue i).forever = s.forever := by
  unfold State.enqueue; split <;> simp_all
@[simp] theorem enqueue_sinkNext (i : Nat) (s : State) : (s.enqueue i).sinkNext = s.sinkNext := by
  unfold State.enqueue; split <;> simp_all
@[simp] theorem enqueue_storageNext (i : Nat) (s : State) : (s.enqueue i).storageNext = s.storageNext := by
  unfold State.enqueue; split <;> simp_all
@[simp] theorem enqueue_draws (i : Nat) (s : State) : (s.enqueue i).draws = s.draws := by
  unfold State.enqueue; split <;> simp_all

/-! ### refilled -/

@[simp] theorem refilled_cfg (s : State) : (s.refilled).cfg = s.cfg := by
  unfold State.refilled; split <;> rfl
@[simp] theorem refilled_eng (s : State) : (s.refilled).eng = s.eng := by
  unfold State.refilled; split <;> rfl
@[simp] theorem refilled_cur (s : State) : (s.refilled).cur = s.cur := by
  unfold State.refilled; split <;> rfl
@[simp] theorem refilled_frState (s : State) : (s.refilled).frState = s.frState := by
  unfold State.refilled; split <;> rfl
@[simp] theorem refilled_frBuf (s : State) : (s.refilled).frBuf = s.frBuf := by
  unfold State.refilled; split <;> rfl
@[simp] theorem refilled_ngPhase (s : State) : (s.refilled).ngPhase = s.ngPhase := by
  unfold State.refilled; split <;> rfl
@[simp] theorem refilled_ngCollected (s : State) : (s.refilled).ngCollected = s.ngCollected := by
  unfold State.refilled; split <;> rfl
@[simp] theorem refilled_upActive (s : State) : (s.refilled).upActive = s.upActive := by
  unfold State.refilled; split <;> rfl
@[simp] theorem refilled_connected (s : State) : (s.refilled).connected = s.connected := by
  unfold State.refilled; split <;> rfl
@[simp] theorem refilled_matched (s : State) : (s.refilled).matched = s.matched := by
  unfold State.refilled; split <;> rfl
@[simp] theorem refilled_slots (s : State) : (s.refilled).slots = s.slots := by
  unfold State.refilled; split <;> rfl
@[simp] theorem refilled_queue (s : State) : (s.refilled).queue = s.queue := by
  unfold State.refilled; split <;> rfl
@[simp] theorem refilled_rx (s : State) : (s.refilled).rx = s.rx := by
  unfold State.refilled; split <;> rfl
@[simp] theorem refilled_tx (s : State) : (s.refilled).tx = s.tx := by
  unfold State.refilled; split <;> rfl
@[simp] theorem refilled_resp (s : State) : (s.refilled).resp = s.resp := by
  unfold State.refilled; split <;> rfl
@[simp] theorem refilled_storageReply (s : State) : (s.refilled).storageReply = s.storageReply := by
  unfold State.refilled; split <;> rfl
@[simp] theorem refilled_sinkNext (s : State) : (s.refilled).sinkNext = s.sinkNext := by
  unfold State.refilled; split <;> rfl
@[simp] theorem refilled_storageNext (s : State) : (s.refilled).storageNext = s.storageNext := by
  unfold State.refilled; split <;> rfl
@[simp] theorem refilled_draws (s : State) : (s.refilled).draws = s.draws := by
  unfold State.refilled; split <;> rfl

end Sys2Proof.Machine
end

