-- ==== Sys2Proof/Laws/Ops.lean ====
section
/-! SUPPORT. What each shared operation can do, said once: the TX port, a CB command, an upload dispatch, the framer's
returns. Later proofs cite these and do not unfold the operations. -/

namespace Sys2Proof.Machine

/-! ### Slots -/

theorem slotAt_setSlot (i j : Nat) (v : Slot) (s : State) :
    (s.setSlot i v).slotAt j = if i = j ∧ i < s.slots.length then v else s.slotAt j := by
  unfold State.slotAt State.setSlot
  simp only [List.getD_eq_getElem?_getD, List.getElem?_set]
  by_cases hij : i = j
  · subst hij
    by_cases hi : i < s.slots.length
    · simp [hi]
    · simp [hi]
  · simp [hij]

/-- Writing a status leaves name, data and size of every slot. -/
theorem slotAt_setStatus (i j : Nat) (st : SlotStatus) (s : State) :
    (s.setStatus i st).slotAt j =
      if i = j ∧ i < s.slots.length then { s.slotAt j with status := st } else s.slotAt j := by
  unfold State.setStatus
  rw [slotAt_setSlot]
  split
  · rename_i h; rw [h.1]
  · rfl

theorem slotAt_congr {s t : State} (h : t.slots = s.slots) (i : Nat) : t.slotAt i = s.slotAt i := by
  unfold State.slotAt; rw [h]

/-- The data of an upload, or none (R101). -/
theorem usable_eq_some {r : Slot} {d : List Byte} :
    r.usable = some d ↔ r.status ≠ .empty ∧ r.data = some d ∧ d ≠ [] := by
  obtain ⟨n, dat, sz, st⟩ := r
  cases st <;> rcases dat with _ | (_ | ⟨b, d'⟩) <;> simp [Slot.usable] <;> (rintro rfl; simp)

theorem usable_eq_none {r : Slot} :
    r.usable = none ↔ r.status = .empty ∨ r.data = none ∨ r.data = some [] := by
  obtain ⟨n, dat, sz, st⟩ := r
  cases st <;> rcases dat with _ | (_ | ⟨b, d'⟩) <;> simp [Slot.usable]

/-! ### The TX port -/

theorem txWrite_ok {f : List Byte} {s : State} (h : s.sinkAnswer = .ok) :
    s.txWrite f = (.ok, s.sinkTaken.txPush { frame := f, answer := .ok, emitted := f }) := by
  simp [State.txWrite, h, sinkIo, txRecord, sinkEmitted]

theorem txWrite_ioError {f : List Byte} {s : State} {k : Nat} (h : s.sinkAnswer = .ioError k) :
    s.txWrite f = (.ioError, s.sinkTaken.txPush { frame := f, answer := .ioError, emitted := f.take k }) := by
  simp [State.txWrite, h, sinkIo, txRecord, sinkEmitted]

/-- A record of a write is sound (R30). -/
theorem txOk_txRecord (f : List Byte) (a : SinkAnswer) : TxOk (txRecord f a) := by
  cases a <;> simp [TxOk, txRecord, sinkIo, sinkEmitted, List.take_prefix]

@[simp] theorem txRecord_frame (f : List Byte) (a : SinkAnswer) : (txRecord f a).frame = f := rfl

/-! ### The command builder -/

theorem cbSend_declined {cmd : Byte} {p : List Byte} {s : State} (h : s.connected = false) :
    cbSend cmd p s = (.declinedNotConnected, s) := by
  simp [cbSend, h]

theorem cbSend_connected {cmd : Byte} {p : List Byte} {s : State} (h : s.connected = true) :
    cbSend cmd p s = ((s.txWrite (cbFrame s.cfg cmd p)).1.code, (s.txWrite (cbFrame s.cfg cmd p)).2) := by
  simp [cbSend, h]

/-- Everything a CB command can do (R92, R93). -/
theorem cbSend_cases (cmd : Byte) (p : List Byte) (s : State) :
    (s.connected = false ∧ cbSend cmd p s = (.declinedNotConnected, s)) ∨
    (s.connected = true ∧
      cbSend cmd p s =
        ((sinkIo s.sinkAnswer).code, s.sinkTaken.txPush (txRecord (cbFrame s.cfg cmd p) s.sinkAnswer))) := by
  cases h : s.connected
  · exact .inl ⟨rfl, cbSend_declined h⟩
  · exact .inr ⟨rfl, cbSend_connected h⟩

theorem cbFrame_eq (c : Config) (cmd : Byte) (p : List Byte) :
    cbFrame c cmd p = [0xF0] ++ c.mfrId ++ [c.deviceId, cmd] ++ p ++ [0xF7] := by
  simp [cbFrame, frameHeader]

/-- The code of a write is `OK` exactly when the sink answered `Ok`. -/
theorem sinkIo_code_ok (a : SinkAnswer) : (sinkIo a).code = .ok ↔ a = .ok := by
  cases a <;> simp [sinkIo, IoAnswer.code]

/-- Everything an upload dispatch can do (R101): declined, or one write, with the status written on `Ok`. -/
theorem dispatch_cases (i : Nat) (s : State) :
    ((s.slotAt i).usable = none ∧ dispatch i s = (.declinedEmpty, s)) ∨
    ((∃ d, (s.slotAt i).usable = some d) ∧ s.connected = false ∧ dispatch i s = (.declinedNotConnected, s)) ∨
    (∃ d, (s.slotAt i).usable = some d ∧ s.connected = true ∧
      dispatch i s = ((sinkIo s.sinkAnswer).code,
        uploadDone i (sinkIo s.sinkAnswer).code
          (s.sinkTaken.txPush (txRecord (cbFrame s.cfg 0x01 (uploadPayload i d)) s.sinkAnswer)))) := by
  cases hu : (s.slotAt i).usable with
  | none => exact .inl ⟨rfl, by simp [dispatch, hu]⟩
  | some d =>
    obtain ⟨h, e⟩ | ⟨h, e⟩ := cbSend_cases 0x01 (uploadPayload i d) s
    · exact .inr (.inl ⟨⟨d, rfl⟩, h, by simp only [dispatch, hu, cbUpload, e]; rfl⟩)
    · exact .inr (.inr ⟨d, rfl, h, by simp only [dispatch, hu, cbUpload, e]⟩)

/-- The end of an upload writes at most one slot's status. -/
theorem uploadDone_cases (i : Nat) (r : ResultCode) (s : State) :
    (r = .ok ∧ uploadDone i r s = s.setStatus i .uploaded) ∨ (r ≠ .ok ∧ uploadDone i r s = s) := by
  by_cases h : r = .ok
  · exact .inl ⟨h, by simp [uploadDone, h]⟩
  · exact .inr ⟨h, by simp [uploadDone, h]⟩

/-! ### The framer's returns -/

/-- Everything a return of `FrStep` can do (R62, R75, R87). -/
theorem frReturn_cases (m : Option MidiMessage) (n : Nat) (s : State) :
    (s.curOp = some opFrTry ∧ ∃ c v, (c = .ok ∨ c = .noMessage) ∧ frReturn m n s = s.finish c v) ∨
    (s.curOp = some opNegDetect ∧ n = 0 ∧ frReturn m n s = { s with ngPhase := .scan }) ∨
    (s.curOp = some opNegDetect ∧ n ≠ 0 ∧ ∃ l, frReturn m n s = { s with ngCollected := s.ngCollected ++ l }) ∨
    (s.curOp ≠ some opFrTry ∧ s.curOp ≠ some opNegDetect ∧ frReturn m n s = s) := by
  by_cases h1 : s.curOp = some opFrTry
  · refine .inl ⟨h1, ?_⟩
    cases m with
    | none => exact ⟨_, _, .inr rfl, by simp only [frReturn, State.frCaller, h1, if_true]; rfl⟩
    | some m => exact ⟨_, _, .inl rfl, by simp only [frReturn, State.frCaller, h1, if_true]; rfl⟩
  · by_cases h2 : s.curOp = some opNegDetect
    · have hc : s.frCaller = .drain := by simp [State.frCaller, h2, opFrTry, opNegDetect]
      by_cases hn : n = 0
      · exact .inr (.inl ⟨h2, hn, by simp [frReturn, hc, drainReturn, hn]⟩)
      · refine .inr (.inr (.inl ⟨h2, hn, ?_⟩))
        simp only [frReturn, hc, drainReturn, if_neg hn]
        split
        · exact ⟨_, rfl⟩
        · exact ⟨[], by simp⟩
    · exact .inr (.inr (.inr ⟨h1, h2, by simp [frReturn, State.frCaller, h1, h2]⟩))

theorem frReturn_host {m : Option MidiMessage} {n : Nat} {s : State} (h : s.curOp = some opFrTry) :
    frReturn m n s = frTryReturn m s := by
  simp [frReturn, State.frCaller, h]

theorem frReturn_drain {m : Option MidiMessage} {n : Nat} {s : State} (h : s.curOp = some opNegDetect) :
    frReturn m n s = drainReturn m n s := by
  have hc : s.frCaller = .drain := by simp [State.frCaller, h, opFrTry, opNegDetect]
  simp [frReturn, hc]

/-- Everything one step of `FrStep` can do (R61). -/
theorem frStep_cases (s : State) :
    (s.frState = .idle ∧ s.rx = [] ∧ frStep s = frReturn none 0 s) ∨
    (s.frState = .idle ∧ s.rx ≠ [] ∧ frStep s = frReturn none 0 s) ∨
    (s.frState = .idle ∧ s.rx ≠ [] ∧ ∃ m, frStep s = frReturn (some m) 3 (s.rxDrop 3)) ∨
    (s.frState = .idle ∧ s.rx ≠ [] ∧ frStep s = frReturn none 1 (s.rxDrop 1)) ∨
    (s.frState = .idle ∧ s.rx ≠ [] ∧ frStep s = frStart s) ∨
    (s.frState = .capture ∧ s.rx = [] ∧ frStep s = s) ∨
    (s.frState = .capture ∧ s.rx.head? = some 0xF7 ∧ frStep s = frEnd s) ∨
    (s.frState = .capture ∧ ∃ b r, s.rx = b :: r ∧ b ≠ 0xF7 ∧ frStep s = frStore b s) := by
  cases hf : s.frState with
  | idle =>
    cases hr : s.rx with
    | nil => exact .inl ⟨rfl, rfl, by simp only [frStep, hf, hr]; rfl⟩
    | cons h r =>
      refine .inr ?_
      have hne : h :: r ≠ [] := by simp
      simp only [hne, ne_eq, not_false_eq_true, true_and, reduceCtorEq, false_and, or_false]
      by_cases h0 : h = 0xF0
      · exact .inr (.inr (.inr (by simp only [frStep, hf, hr, h0, if_true])))
      by_cases hk : h &&& 0xF0 = 0x80 ∨ h &&& 0xF0 = 0x90 ∨ h &&& 0xF0 = 0xB0
      · match r with
        | [] => exact .inl (by simp only [frStep, hf, hr, h0, hk, if_true, if_false]; rfl)
        | [_] => exact .inl (by simp only [frStep, hf, hr, h0, hk, if_true, if_false]; rfl)
        | b1 :: b2 :: _ =>
          refine .inr (.inl ?_)
          simp only [frStep, hf, hr, h0, hk, if_true, if_false]
          split
          · exact ⟨_, rfl⟩
          split
          · exact ⟨_, rfl⟩
          · exact ⟨_, rfl⟩
      · exact .inr (.inr (.inl (by simp only [frStep, hf, hr, h0, hk, if_false]; rfl)))
  | capture =>
    refine .inr (.inr (.inr (.inr (.inr ?_))))
    cases hr : s.rx with
    | nil => exact .inl ⟨rfl, rfl, by simp only [frStep, hf, hr]; rfl⟩
    | cons b r =>
      by_cases hb : b = 0xF7
      · exact .inr (.inl ⟨rfl, by simp [hb], by simp only [frStep, hf, hr, hb, if_true]⟩)
      · exact .inr (.inr ⟨rfl, b, r, rfl, hb, by simp only [frStep, hf, hr, hb, if_false]⟩)

end Sys2Proof.Machine
end

