-- ==== Sys2Proof/Laws/Codec.lean ====
section
/-! SUPPORT. The codec's loops (R76, R78) as cutting a bit stream into groups (R10, R39): the loop's pending bits and the
bits still to come, cut into groups of `wout`, are what it outputs. -/

namespace Sys2Proof.Machine

/-- The low `n` bits of a natural, the most significant first. -/
def natBits (n a : Nat) : List Bool := (List.range n).map (fun i => a.testBit (n - 1 - i))

/-- The whole groups of `w` bits of a stream, packed; `fuel` bounds their number. -/
def chunks (w : Nat) : (fuel : Nat) → List Bool → List Byte
  | 0, _ => []
  | fuel + 1, t => if w ≤ t.length then pack (t.take w) :: chunks w fuel (t.drop w) else []

@[simp] theorem natBits_length (n a : Nat) : (natBits n a).length = n := by simp [natBits]

@[simp] theorem natBits_zero (a : Nat) : natBits 0 a = [] := rfl

theorem natBits_getElem? (n a i : Nat) : (natBits n a)[i]? = if i < n then some (a.testBit (n - 1 - i)) else none := by
  by_cases h : i < n
  · simp [natBits, h]
  · simp [natBits, h]

theorem byteBits_eq_natBits (w : Nat) (b : Byte) : byteBits w b = natBits w b.toNat := rfl

@[simp] theorem byteBits_length (w : Nat) (b : Byte) : (byteBits w b).length = w := by simp [byteBits_eq_natBits]

/-- Bits above and bits below position `m`. -/
theorem natBits_append (n m a : Nat) : natBits (n + m) a = natBits n (a >>> m) ++ natBits m a := by
  apply List.ext_getElem?
  intro i
  rw [natBits_getElem?, List.getElem?_append]
  simp only [natBits_length, natBits_getElem?]
  by_cases h : i < n
  · simp only [h, if_true, if_pos (by omega : i < n + m), Nat.testBit_shiftRight]
    congr 2; omega
  · by_cases h2 : i < n + m
    · simp only [h, h2, if_true, if_false, if_pos (by omega : i - n < m)]
      congr 2; omega
    · simp only [h, h2, if_false, if_neg (by omega : ¬ i - n < m)]

/-- Only the low bits count. -/
theorem natBits_congr {n a b : Nat} (h : ∀ i, i < n → a.testBit i = b.testBit i) : natBits n a = natBits n b := by
  apply List.ext_getElem?
  intro i
  simp only [natBits_getElem?]
  split
  · rw [h _ (by omega)]
  · rfl

/-- One turn of the outer loop appends the byte's bits to the pending ones. -/
theorem natBits_push (n w acc : Nat) (b : Byte) :
    natBits (n + w) ((acc <<< w) ||| (b.toNat % 2 ^ w)) = natBits n acc ++ byteBits w b := by
  have hlt : b.toNat % 2 ^ w < 2 ^ w := Nat.mod_lt _ (Nat.two_pow_pos w)
  rw [natBits_append, byteBits_eq_natBits]
  congr 1
  · apply natBits_congr
    intro i _
    rw [Nat.testBit_shiftRight, Nat.testBit_or, Nat.testBit_shiftLeft, Nat.testBit_mod_two_pow]
    simp
  · apply natBits_congr
    intro i hi
    rw [Nat.testBit_or, Nat.testBit_shiftLeft, Nat.testBit_mod_two_pow]
    simp [hi]

/-- Packing `w` bits, bit by bit from the most significant. -/
theorem foldl_natBits (n a c : Nat) :
    (natBits n a).foldl (fun acc b => 2 * acc + b.toNat) c = c * 2 ^ n + a % 2 ^ n := by
  induction n generalizing a with
  | zero => simp [Nat.mod_one]
  | succ n ih =>
    rw [show natBits (n + 1) a = natBits n (a >>> 1) ++ natBits 1 a from natBits_append n 1 a, List.foldl_append, ih]
    simp only [natBits, List.range_one, List.map_cons, List.map_nil, List.foldl_cons, List.foldl_nil,
      Nat.shiftRight_one]
    have h1 : (a.testBit (1 - 1 - 0)).toNat = a % 2 := by
      simp [Nat.testBit_zero]
      rcases Nat.mod_two_eq_zero_or_one a with h | h <;> simp [h]
    have h2 : a % 2 ^ (n + 1) = a % 2 + 2 * (a / 2 % 2 ^ n) := by
      rw [pow_succ, mul_comm, Nat.mod_mul]
    rw [h1, h2, pow_succ]
    ring

/-- Packing the low `w` bits of a natural gives its value below `2 ^ w`. -/
theorem pack_natBits (w a : Nat) : pack (natBits w a) = BitVec.ofNat 8 (a % 2 ^ w) := by
  unfold pack
  rw [foldl_natBits]
  simp

/-- The bits of a packed group are the group. -/
theorem natBits_pack {t : List Bool} (h : t.length ≤ 8) : natBits t.length (pack t).toNat = t := by
  have key : ∀ (t : List Bool) (c : Nat),
      natBits t.length (t.foldl (fun acc b => 2 * acc + b.toNat) c) = t ∧
      (t.foldl (fun acc b => 2 * acc + b.toNat) c) < (c + 1) * 2 ^ t.length := by
    intro t
    induction t using List.reverseRecOn with
    | nil => intro c; simp
    | append_singleton t b ih =>
      intro c
      obtain ⟨h1, h2⟩ := ih c
      simp only [List.foldl_append, List.foldl_cons, List.foldl_nil, List.length_append, List.length_singleton]
      constructor
      · rw [natBits_append]
        congr 1
        · rw [Nat.shiftRight_one]
          have : (2 * t.foldl (fun acc b => 2 * acc + b.toNat) c + b.toNat) / 2 =
              t.foldl (fun acc b => 2 * acc + b.toNat) c := by
            have hb : b.toNat < 2 := Bool.toNat_lt b
            omega
          rw [this, h1]
        · cases b <;> simp [natBits, Nat.testBit_zero]
      · have hb : b.toNat ≤ 1 := by cases b <;> simp
        calc _ < 2 * ((c + 1) * 2 ^ t.length) := by omega
          _ = _ := by ring
  obtain ⟨h1, h2⟩ := key t 0
  have hlt : t.foldl (fun acc b => 2 * acc + b.toNat) 0 < 2 ^ 8 :=
    lt_of_lt_of_le h2 (by simpa using Nat.pow_le_pow_right (by decide) h)
  unfold pack
  rw [BitVec.toNat_ofNat, Nat.mod_eq_of_lt hlt, h1]

/-- More fuel than bits changes nothing. -/
theorem chunks_fuel {w : Nat} (hw : 0 < w) : ∀ (f g : Nat) (t : List Bool), t.length ≤ f → t.length ≤ g →
    chunks w f t = chunks w g t := by
  intro f
  induction f with
  | zero =>
    intro g t hf _
    cases g with
    | zero => rfl
    | succ g => simp only [chunks]; rw [if_neg (by omega)]
  | succ f ih =>
    intro g t hf hg
    cases g with
    | zero => simp only [chunks]; rw [if_neg (by omega)]
    | succ g =>
      simp only [chunks]
      split
      · rw [ih g (t.drop w) (by simp; omega) (by simp; omega)]
      · rfl

/-- The whole groups of a stream. -/
def groups (w : Nat) (t : List Bool) : List Byte := chunks w t.length t

theorem groups_short {w : Nat} {t : List Bool} (h : t.length < w) : groups w t = [] := by
  unfold groups
  cases hl : t.length with
  | zero => rfl
  | succ n => simp only [chunks]; rw [if_neg (by omega)]

theorem groups_long {w : Nat} (hw : 0 < w) {t : List Bool} (h : w ≤ t.length) :
    groups w t = pack (t.take w) :: groups w (t.drop w) := by
  unfold groups
  obtain ⟨n, hn⟩ : ∃ n, t.length = n + 1 := ⟨t.length - 1, by omega⟩
  conv_lhs => rw [hn]
  simp only [chunks]
  rw [if_pos h, chunks_fuel hw n (t.drop w).length (t.drop w) (by simp; omega) le_rfl]

/-- A group at the front of a stream. -/
theorem groups_append_group {w : Nat} (hw : 0 < w) {g : List Bool} (hg : g.length = w) (t : List Bool) :
    groups w (g ++ t) = pack g :: groups w t := by
  rw [groups_long hw (by simp [hg]), List.take_left' hg, List.drop_left' hg]

/-- The inner loop outputs the whole groups of the pending bits and leaves the rest pending. -/
theorem emitGroups_append {w : Nat} (hw : 0 < w) (hw8 : w ≤ 8) (acc : Nat) (t : List Bool) :
    ∀ (fuel n : Nat), n ≤ fuel →
      (emitGroups w acc fuel n).2 = n % w ∧
      groups w (natBits n acc ++ t) = (emitGroups w acc fuel n).1 ++ groups w (natBits (n % w) acc ++ t) := by
  intro fuel
  induction fuel with
  | zero => intro n hn; obtain rfl : n = 0 := by omega
            simp [emitGroups]
  | succ fuel ih =>
    intro n hn
    simp only [emitGroups]
    split
    · rename_i h
      obtain ⟨i1, i2⟩ := ih (n - w) (by omega)
      have hm : n % w = (n - w) % w := Nat.mod_eq_sub_mod h
      refine ⟨by rw [i1, hm], ?_⟩
      have hs : natBits n acc = natBits w (acc >>> (n - w)) ++ natBits (n - w) acc := by
        rw [← natBits_append]; congr 1; omega
      rw [hs, List.append_assoc, groups_append_group hw (natBits_length _ _), i2, pack_natBits, hm,
        Nat.and_two_pow_sub_one_eq_mod]
      rfl
    · rename_i h
      rw [Nat.mod_eq_of_lt (by omega)]
      exact ⟨rfl, rfl⟩

/-- The outer loop: the pending bits and the bytes' bits, cut into groups. -/
theorem regroup_eq_groups {win wout : Nat} (hw : 0 < wout) (hw8 : wout ≤ 8) (d : List Byte) :
    ∀ (acc n : Nat), n < wout →
      regroup win wout acc n d = groups wout (natBits n acc ++ d.flatMap (byteBits win)) := by
  induction d with
  | nil => intro acc n hn; simp [regroup, groups_short, hn]
  | cons b d ih =>
    intro acc n _
    simp only [regroup, List.flatMap_cons]
    obtain ⟨h1, h2⟩ := emitGroups_append hw hw8 ((acc <<< win) ||| (b.toNat % 2 ^ win)) (d.flatMap (byteBits win))
      (n + win) (n + win) le_rfl
    rw [← List.append_assoc, ← natBits_push, h2, h1, ih _ _ (Nat.mod_lt _ hw)]

/-- `ENC7` cuts the 8-bit stream into groups of 7 (R76). -/
theorem enc7_eq_groups (d : List Byte) : enc7 d = groups 7 (bits8 d) := by
  simpa [enc7, bits8] using regroup_eq_groups (win := 8) (wout := 7) (by decide) (by decide) d 0 0 (by decide)

/-- `DEC7` cuts the 7-bit stream into groups of 8 (R78). -/
theorem dec7_eq_groups (e : List Byte) : dec7 e = groups 8 (bits7 e) := by
  simpa [dec7, bits7] using regroup_eq_groups (win := 7) (wout := 8) (by decide) (by decide) e 0 0 (by decide)

theorem flatMap_byteBits_length (w : Nat) (d : List Byte) : (d.flatMap (byteBits w)).length = w * d.length := by
  induction d with
  | nil => simp
  | cons b d ih => simp only [List.flatMap_cons, List.length_append, byteBits_length, ih, List.length_cons]; ring

/-- The number of whole groups. -/
theorem groups_length {w : Nat} (hw : 0 < w) (t : List Bool) : (groups w t).length = t.length / w := by
  induction h : t.length using Nat.strong_induction_on generalizing t with
  | _ n ih =>
    subst h
    by_cases hl : w ≤ t.length
    · rw [groups_long hw hl, List.length_cons, ih (t.drop w).length (by simp; omega) _ rfl, List.length_drop,
        Nat.div_eq_sub_div hw hl]
    · rw [groups_short (by omega), Nat.div_eq_of_lt (by omega)]; rfl

/-- A packed group of `w` bits is below `2 ^ w`. -/
theorem pack_lt (t : List Bool) : (pack t).toNat < 2 ^ t.length := by
  have hk : ∀ (t : List Bool) (c : Nat),
      (t.foldl (fun acc b => 2 * acc + b.toNat) c) < (c + 1) * 2 ^ t.length := by
    intro t
    induction t with
    | nil => intro c; simp
    | cons b t ih =>
      intro c
      have hb : b.toNat ≤ 1 := by cases b <;> simp
      calc _ < (2 * c + b.toNat + 1) * 2 ^ t.length := ih _
        _ ≤ (2 * c + 2) * 2 ^ t.length := Nat.mul_le_mul_right _ (by omega)
        _ = _ := by rw [List.length_cons, pow_succ]; ring
  have h2 := hk t 0
  simp only [zero_add, one_mul] at h2
  unfold pack
  rw [BitVec.toNat_ofNat]
  exact lt_of_le_of_lt (Nat.mod_le _ _) h2

end Sys2Proof.Machine
end

