-- ==== Sys2Proof/Laws/Decode.lean ====
section
/-! SUPPORT. What the decode tables say of every byte, and that the framer's pseudocode (R61) and the decoded rows (R47, R48)
have one effect. -/

namespace Sys2Proof

/-! ### Requests (R55, R56) -/

theorem decodeRequest_frTry {q : Request} (h : q.op = 0x01) : decodeRequest q = .frTry := by simp [decodeRequest, h]
theorem decodeRequest_enc7 {q : Request} (h : q.op = 0x02) : decodeRequest q = .enc7 q.bytes := by simp [decodeRequest, h]
theorem decodeRequest_dec7 {q : Request} (h : q.op = 0x03) : decodeRequest q = .dec7 q.bytes := by simp [decodeRequest, h]
theorem decodeRequest_negDetect {q : Request} (h : q.op = 0x10) : decodeRequest q = .negDetect := by simp [decodeRequest, h]
theorem decodeRequest_cbQuery {q : Request} (h : q.op = 0x20) : decodeRequest q = .cbQuery q.slot := by simp [decodeRequest, h]
theorem decodeRequest_cbSave {q : Request} (h : q.op = 0x21) : decodeRequest q = .cbSave := by simp [decodeRequest, h]
theorem decodeRequest_regAssign {q : Request} (h : q.op = 0x30) : decodeRequest q = .regAssign q.slot q.path := by simp [decodeRequest, h]
theorem decodeRequest_regUploadOne {q : Request} (h : q.op = 0x31) : decodeRequest q = .regUploadOne q.slot := by simp [decodeRequest, h]
theorem decodeRequest_regUploadAll {q : Request} (h : q.op = 0x32) : decodeRequest q = .regUploadAll := by simp [decodeRequest, h]
theorem decodeRequest_regClear {q : Request} (h : q.op = 0x33) : decodeRequest q = .regClear q.slot := by simp [decodeRequest, h]
theorem decodeRequest_rdSlot {q : Request} (h : q.op = 0x40) : decodeRequest q = .rdSlot q.slot := by simp [decodeRequest, h]
theorem decodeRequest_rdSession {q : Request} (h : q.op = 0x41) : decodeRequest q = .rdSession := by simp [decodeRequest, h]
theorem decodeRequest_rdQueue {q : Request} (h : q.op = 0x42) : decodeRequest q = .rdQueue := by simp [decodeRequest, h]

/-- An op code outside R55 is the illegal row. -/
theorem decodeRequest_illegal {q : Request} (h : q.op ∉ legalOps) : decodeRequest q = .illegal q.op := by
  simp only [legalOps, List.mem_cons, List.not_mem_nil, or_false, not_or] at h
  obtain ⟨h1, h2, h3, h4, h5, h6, h7, h8, h9, h10, h11, h12, h13⟩ := h
  rw [decodeRequest, if_neg h1, if_neg h2, if_neg h3, if_neg h4, if_neg h5, if_neg h6, if_neg h7, if_neg h8, if_neg h9,
    if_neg h10, if_neg h11, if_neg h12, if_neg h13]

/-- The op codes, one by one. -/
theorem op_cases (op : Byte) : op = 0x01 ∨ op = 0x02 ∨ op = 0x03 ∨ op = 0x10 ∨ op = 0x20 ∨ op = 0x21 ∨ op = 0x30 ∨
    op = 0x31 ∨ op = 0x32 ∨ op = 0x33 ∨ op = 0x40 ∨ op = 0x41 ∨ op = 0x42 ∨ op ∉ legalOps := by
  by_cases h : op ∈ legalOps
  · simp only [legalOps, List.mem_cons, List.not_mem_nil, or_false] at h
    tauto
  · simp only [h, not_false_eq_true, or_true]

/-! ### Head and capture bytes (R47, R48) -/

/-- The head table as a chain of ranges (R47, column "bytes covered"). -/
theorem classifyHead_ranges : ∀ h : Byte, classifyHead h = some
    (if h ≤ 0x7F then .dropData else if h ≤ 0x8F then .noteOff else if h ≤ 0x9F then .noteOn
     else if h ≤ 0xAF then .dropA0 else if h ≤ 0xBF then .controlChange else if h ≤ 0xCF then .dropC0
     else if h ≤ 0xDF then .dropD0 else if h ≤ 0xEF then .dropE0 else if h = 0xF0 then .sysexStart
     else if h = 0xF1 then .dropF1 else if h ≤ 0xF3 then .dropF2 else if h ≤ 0xF7 then .dropF4 else .dropF8) := by
  decide

/-- The capture table as a chain of ranges (R48, column "bytes covered"). -/
theorem classifyCapture_ranges : ∀ b : Byte, classifyCapture b = some
    (if b = 0xF7 then .capEnd else if b ≤ 0x7F then .data else if b ≤ 0xBF then .status80
     else if b ≤ 0xDF then .statusC0 else if b ≤ 0xEF then .statusE0 else if b ≤ 0xF3 then .statusF0
     else if b ≤ 0xF5 then .statusF4 else if b = 0xF6 then .statusF6 else .statusF8) := by
  decide

/-- A classified head byte matches its row. -/
theorem classifyHead_matches {h : Byte} {c : HeadClass} (hc : classifyHead h = some c) : c.Matches h := by
  simpa using List.find?_some hc

/-- A classified capture byte matches its row. -/
theorem classifyCapture_matches {b : Byte} {c : CaptureClass} (hc : classifyCapture b = some c) : c.Matches b := by
  simpa using List.find?_some hc

/-- Every byte is classified at the head, and so some instruction is decoded there. -/
theorem decodeHead_cons (h : Byte) (rest : List Byte) :
    ∃ c, classifyHead h = some c ∧ decodeHead (h :: rest) = .ok (c.instr h rest) := by
  have hc := classifyHead_ranges h
  exact ⟨_, hc, by simp only [decodeHead, hc]⟩

/-- Every byte is classified in a capture, and so some instruction is decoded there. -/
theorem decodeCapture_cons (b : Byte) (rest : List Byte) :
    ∃ c, classifyCapture b = some c ∧ decodeCapture (b :: rest) = .ok (c.instr b) := by
  have hc := classifyCapture_ranges b
  exact ⟨_, hc, by simp only [decodeCapture, hc]⟩

@[simp] theorem decodeHead_nil : decodeHead [] = .reject .emptyStream := rfl
@[simp] theorem decodeCapture_nil : decodeCapture [] = .reject .emptyStream := rfl
@[simp] theorem chanOperands_pair (b1 b2 : Byte) (r : List Byte) : chanOperands (b1 :: b2 :: r) = .complete b1 b2 := rfl
@[simp] theorem chanOperands_nil : chanOperands [] = .incomplete := rfl
@[simp] theorem chanOperands_one (b : Byte) : chanOperands [b] = .incomplete := rfl

/-- The byte a decoded capture class stands for: the row's fixed bits and the free ones (R48). -/
theorem captureClass_stored : ∀ b : Byte, b ≠ 0xF7 →
    ((classifyCapture b).bind fun c => (c.instr b).stored) = some b := by
  decide

/-- `F7` and only `F7` ends a capture. -/
theorem classifyCapture_end : classifyCapture 0xF7 = some .capEnd := by decide

/-- The head rows as the pseudocode of R61 tells them apart. -/
theorem classifyHead_kind : ∀ h : Byte,
    (classifyHead h = some .sysexStart ↔ h = 0xF0) ∧
    (classifyHead h = some .noteOn ↔ h &&& 0xF0 = 0x90) ∧
    (classifyHead h = some .noteOff ↔ h &&& 0xF0 = 0x80) ∧
    (classifyHead h = some .controlChange ↔ h &&& 0xF0 = 0xB0) ∧
    h.setWidth 4 = (h &&& 0x0F).setWidth 4 := by
  decide

/-- Every row but those four drops its byte. -/
theorem headClass_drops (c : HeadClass) (h : Byte) (rest : List Byte)
    (hs : c ≠ .sysexStart) (h1 : c ≠ .noteOn) (h2 : c ≠ .noteOff) (h3 : c ≠ .controlChange) :
    (c.instr h rest).Drops := by
  cases c <;> first | contradiction | trivial

namespace Machine

/-- A head row that drops has one effect. -/
theorem exec_of_drops {i : Instr} (hi : i.Drops) (s : State) : exec i s = .next (frDrop s) := by
  cases i <;> first | exact hi.elim | rfl

/-- A capture row that stores has one effect. -/
theorem exec_of_stored {i : Instr} {b : Byte} (hi : i.stored = some b) (s : State) : exec i s = .next (frStore b s) := by
  cases i <;> simp only [Instr.stored, Option.some.injEq, reduceCtorEq] at hi <;> subst hi <;> rfl

/-- R61 and R47: a step of `FrStep` at a head byte is the decoded row's meaning. -/
theorem exec_decodeHead {s : State} {i : Instr} (hf : s.frState = .idle) (hd : decodeHead s.rx = .ok i) :
    exec i s = .next (frStep s) := by
  cases hr : s.rx with
  | nil => simp [hr] at hd
  | cons h rest =>
    obtain ⟨c, hc, hdc⟩ := decodeHead_cons h rest
    rw [hr, hdc] at hd
    cases hd
    obtain ⟨k0, k9, k8, kB, kw⟩ := classifyHead_kind h
    rw [hc] at k0 k9 k8 kB
    simp only [Option.some.injEq] at k0 k9 k8 kB
    simp only [frStep, hf, hr]
    by_cases e0 : c = .sysexStart
    · rw [if_pos (k0.1 e0)]; subst e0; rfl
    rw [if_neg (mt k0.2 e0)]
    by_cases e9 : c = .noteOn
    · have h9 := k9.1 e9
      subst e9
      rw [if_pos (Or.inr (Or.inl h9))]
      match rest with
      | [] => rfl
      | [_] => rfl
      | b1 :: b2 :: _ => simp only [h9, if_true, HeadClass.instr, chanOperands_pair, kw]; rfl
    by_cases e8 : c = .noteOff
    · have h8 := k8.1 e8
      subst e8
      rw [if_pos (Or.inl h8)]
      match rest with
      | [] => rfl
      | [_] => rfl
      | b1 :: b2 :: _ => simp only [h8, HeadClass.instr, chanOperands_pair, kw]; rfl
    by_cases eB : c = .controlChange
    · have hB := kB.1 eB
      subst eB
      rw [if_pos (Or.inr (Or.inr hB))]
      match rest with
      | [] => rfl
      | [_] => rfl
      | b1 :: b2 :: _ => simp only [hB, HeadClass.instr, chanOperands_pair, kw]; rfl
    rw [if_neg (by rintro (x | x | x); exacts [e8 (k8.2 x), e9 (k9.2 x), eB (kB.2 x)])]
    exact exec_of_drops (headClass_drops c h rest e0 e9 e8 eB) s

/-- R61 and R48: a step of `FrStep` at a byte in a capture is the decoded row's meaning. -/
theorem exec_decodeCapture {s : State} {i : Instr} (hf : s.frState = .capture) (hd : decodeCapture s.rx = .ok i) :
    exec i s = .next (frStep s) := by
  cases hr : s.rx with
  | nil => simp [hr] at hd
  | cons b rest =>
    obtain ⟨c, hc, hdc⟩ := decodeCapture_cons b rest
    rw [hr, hdc] at hd
    cases hd
    simp only [frStep, hf, hr]
    by_cases hb : b = 0xF7
    · rw [if_pos hb]
      rw [hb, classifyCapture_end] at hc
      cases hc
      rfl
    · rw [if_neg hb]
      have hs := captureClass_stored b hb
      rw [hc] at hs
      exact exec_of_stored hs s

end Machine

end Sys2Proof
end

