-- ==== Sys2Proof/Laws/Moves.lean ====
section
/-! SUPPORT. What a step can do, said once: the moves of the engine (`engineMove_of_fetch`) and of the whole machine
(`step_cases`). Every statement about all steps is derived from these. -/

namespace Sys2Proof.Machine

/-- The moves of the engine: what a state becomes, and in which operation and phase. -/
inductive EngineMove (s : State) : State → Prop
  | framer (h : s.curOp = some opFrTry ∨ (s.curOp = some opNegDetect ∧ s.ngPhase = .drain) ∨ s.frState = .capture) :
      EngineMove s (frStep s)
  | codec (v : List Byte) (n : Nat) (hf : s.frState = .idle) (h : s.curOp = some 0x02 ∨ s.curOp = some 0x03) :
      EngineMove s (State.finish .ok (.bytes v) { s with draws := n })
  | send (hf : s.frState = .idle) (h : s.curOp = some opNegDetect) (hp : s.ngPhase = .idle) : EngineMove s (ngSend s)
  | scan (hf : s.frState = .idle) (h : s.curOp = some opNegDetect) (hp : s.ngPhase = .scan) : EngineMove s (ngScan s)
  | query (q : Request) (hf : s.frState = .idle) (hq : s.cur = some q) (h : q.op = 0x20) :
      EngineMove s (cbQuery q.slot s)
  | save (hf : s.frState = .idle) (h : s.curOp = some 0x21) : EngineMove s (cbSave s)
  | assign (q : Request) (hf : s.frState = .idle) (hq : s.cur = some q) (h : q.op = opRegAssign) :
      EngineMove s (regAssign q.slot q.path s)
  | uploadOne (q : Request) (hf : s.frState = .idle) (hq : s.cur = some q) (h : q.op = opRegUploadOne) :
      EngineMove s (regUploadOne q.slot s)
  | uploadAll (hf : s.frState = .idle) (h : s.curOp = some opRegUploadAll) : EngineMove s (regUploadAll s)
  | clear (q : Request) (hf : s.frState = .idle) (hq : s.cur = some q) (h : q.op = 0x33) :
      EngineMove s (regClear q.slot s)
  | read (v : ResponseValue) (c : ResultCode) (hf : s.frState = .idle)
      (h : s.curOp = some 0x40 ∨ s.curOp = some 0x41 ∨ s.curOp = some 0x42)
      (hc : c = .ok ∨ (c = .declinedRange ∧ v = .none)) : EngineMove s (s.finish c v)
  | illegal (op : Byte) (hf : s.frState = .idle) (h : s.curOp = some op) (ho : op ∉ legalOps) :
      EngineMove s (s.finish .illegalOp .none)

/-- A fetched instruction belongs to a request in progress. -/
theorem running_of_fetch {s : State} {i : Instr} (hi : fetch s = some i) : ∃ q, s.eng = .busy ∧ s.cur = some q := by
  cases he : s.eng <;> cases hc : s.cur <;> simp_all [fetch]

/-- The engine's next step is a move. -/
theorem engineMove_of_fetch {s : State} {i : Instr} (hi : fetch s = some i) :
    ∃ t, exec i s = .next t ∧ EngineMove s t := by
  obtain ⟨q, he, hc⟩ := running_of_fetch hi
  have hop : s.curOp = some q.op := by simp [State.curOp, hc]
  simp only [fetch, he, hc] at hi
  cases hf : s.frState with
  | capture =>
    simp only [hf] at hi
    cases hd : decodeCapture s.rx with
    | reject r => simp [hd, Decoded.toOption] at hi
    | ok j =>
      simp only [hd, Decoded.toOption, Option.some.injEq] at hi
      subst hi
      exact ⟨_, exec_decodeCapture hf hd, .framer (.inr (.inr hf))⟩
  | idle =>
    simp only [hf] at hi
    split at hi
    · rename_i hr
      cases hd : decodeHead s.rx with
      | reject r => simp [hd, Decoded.toOption] at hi
      | ok j =>
        simp only [hd, Decoded.toOption, Option.some.injEq] at hi
        subst hi
        refine ⟨_, exec_decodeHead hf hd, .framer ?_⟩
        rw [hop, Option.some.injEq, Option.some.injEq]
        exact hr.1.elim .inl fun h => .inr (.inl h)
    · rename_i hr
      split at hi
      · exact absurd hi (by simp)
      rename_i hs
      cases hi
      obtain h | h | h | h | h | h | h | h | h | h | h | h | h | h := op_cases q.op
      · rw [decodeRequest_frTry h]
        exact ⟨_, rfl, .framer (.inl (by rw [hop, h]; rfl))⟩
      · rw [decodeRequest_enc7 h]
        exact ⟨_, rfl, .codec (enc7 q.bytes) s.draws hf (.inl (by rw [hop, h]))⟩
      · rw [decodeRequest_dec7 h]
        simp only [exec, execDec7]
        split
        · exact ⟨_, rfl, .codec (dec7 q.bytes) s.draws hf (.inr (by rw [hop, h]))⟩
        · exact ⟨_, rfl, .codec _ (s.draws + 1) hf (.inr (by rw [hop, h]))⟩
      · rw [decodeRequest_negDetect h]
        have ho : s.curOp = some opNegDetect := by rw [hop, h]; rfl
        simp only [exec, execNegDetect, negDetect]
        cases hp : s.ngPhase with
        | idle => exact ⟨_, rfl, .send hf ho hp⟩
        | settle => exact absurd ⟨h, hp⟩ hs
        | drain => exact ⟨_, rfl, .framer (.inr (.inl ⟨ho, hp⟩))⟩
        | scan => exact ⟨_, rfl, .scan hf ho hp⟩
      · rw [decodeRequest_cbQuery h]; exact ⟨_, rfl, .query q hf hc h⟩
      · rw [decodeRequest_cbSave h]; exact ⟨_, rfl, .save hf (by rw [hop, h])⟩
      · rw [decodeRequest_regAssign h]; exact ⟨_, rfl, .assign q hf hc h⟩
      · rw [decodeRequest_regUploadOne h]; exact ⟨_, rfl, .uploadOne q hf hc h⟩
      · rw [decodeRequest_regUploadAll h]; exact ⟨_, rfl, .uploadAll hf (by rw [hop, h]; rfl)⟩
      · rw [decodeRequest_regClear h]; exact ⟨_, rfl, .clear q hf hc h⟩
      · rw [decodeRequest_rdSlot h]
        simp only [exec, execRdSlot, rdSlot]
        split
        · exact ⟨_, rfl, .read _ _ hf (.inl (by rw [hop, h])) (.inl rfl)⟩
        · exact ⟨_, rfl, .read _ _ hf (.inl (by rw [hop, h])) (.inr ⟨rfl, rfl⟩)⟩
      · rw [decodeRequest_rdSession h]
        exact ⟨_, rfl, .read _ _ hf (.inr (.inl (by rw [hop, h]))) (.inl rfl)⟩
      · rw [decodeRequest_rdQueue h]
        exact ⟨_, rfl, .read _ _ hf (.inr (.inr (by rw [hop, h]))) (.inl rfl)⟩
      · rw [decodeRequest_illegal h]
        exact ⟨_, rfl, .illegal q.op hf hop h⟩

/-- The turns to come after a step: as they were, or without the first one. -/
abbrev LeftOf (sch r : List Turn) : Prop := r = sch ∨ ∃ x, sch = x :: r

/-- What one step of the machine can do, where the turns to come are `sch` and then, without end, `f`: an engine move (with or
without its turn taken), a step of the serial source, of the timer, of the host, or nothing but a turn taken. -/
inductive MachineMove (s : State) (sch : List Turn) (f : Forever) : State → Prop
  | engine (r : List Turn) (i : Instr) (t : State) (hr : LeftOf sch r)
      (hi : fetch { s with schedule := r, forever := f } = some i)
      (hm : EngineMove { s with schedule := r, forever := f } t) : MachineMove s sch f t
  | push (b : Byte) (r : List Turn) (hs : sch = .rxPush b :: r) :
      MachineMove s sch f (State.rxPush b { s with schedule := r, forever := f })
  | settle (r : List Turn) (hr : LeftOf sch r) (hp : s.ngPhase = .settle) :
      MachineMove s sch f (settleEnd { s with schedule := r, forever := f })
  | request (q : Request) (r : List Turn) (hs : sch = .request q :: r) (he : s.eng = .idle) :
      MachineMove s sch f (State.accept q { s with schedule := r, forever := f })
  | rest (r : List Turn) (hr : LeftOf sch r) : MachineMove s sch f { s with schedule := r, forever := f }

theorem machineMove_of_exec {s t : State} {sch r : List Turn} {f : Forever} {i : Instr} (hr : LeftOf sch r)
    (hi : fetch { s with schedule := r, forever := f } = some i)
    (ht : exec i { s with schedule := r, forever := f } = .next t) : MachineMove s sch f t := by
  obtain ⟨u, hu, hm⟩ := engineMove_of_fetch hi
  rw [ht] at hu
  cases hu
  exact .engine r i t hr hi hm

theorem machineMove_of_default {s t : State} {sch r : List Turn} {f : Forever} (hr : LeftOf sch r)
    (h : defaultMove { s with schedule := r, forever := f } = .next t) : MachineMove s sch f t := by
  unfold defaultMove at h
  split at h
  · exact machineMove_of_exec hr ‹_› h
  · split at h
    · cases h; exact .settle r hr ‹_›
    · cases h; exact .rest r hr

theorem machineMove_of_scheduled {s t : State} {sch : List Turn} {f : Forever}
    (h : scheduledMove { s with schedule := sch, forever := f } = .next t) : MachineMove s sch f t := by
  cases sch with
  | nil => exact machineMove_of_default (.inl rfl) h
  | cons x r =>
    have hr : LeftOf (x :: r) r := .inr ⟨x, rfl⟩
    simp only [scheduledMove] at h
    unfold takeTurn at h
    split at h
    · unfold engineStep at h
      split at h
      · exact machineMove_of_exec hr ‹_› h
      · cases h; exact .rest r hr
    · split at h
      · rename_i hi
        obtain ⟨i, hi⟩ := Option.isSome_iff_exists.1 hi
        simp only [engineStep, hi] at h
        exact machineMove_of_exec (.inl rfl) hi h
      · cases h; exact .rest r hr
    · cases h; exact .push _ r rfl
    · split at h
      · cases h; exact .settle r hr ‹_›
      · exact machineMove_of_default (.inl rfl) h
    · split at h
      · cases h; exact .request _ r rfl ‹_›
      · exact machineMove_of_default (.inl rfl) h
    · exact machineMove_of_default hr h

/-! ### The turns without end -/

theorem refilled_of_cons {s : State} {x : Turn} {r : List Turn} (h : s.schedule = x :: r) : s.refilled = s := by
  simp [State.refilled, h]

theorem refilled_of_empty {s : State} (h : s.schedule = []) :
    s.refilled = { s with schedule := foreverBlock s.forever, forever := foreverNext s.forever } := by
  simp [State.refilled, h]

theorem refilled_of_rest {s : State} (h : s.forever = .rest) : s.refilled = s := by
  cases hs : s.schedule with
  | cons x r => exact refilled_of_cons hs
  | nil => rw [refilled_of_empty hs]; cases s; simp_all [foreverBlock, foreverNext]

/-- A block without a turn is no block, and a block ends in the turn `fair`. -/
theorem foreverBlock_cases (f : Forever) : f = .rest ∨ .fair ∈ foreverBlock f := by
  cases f <;> simp [foreverBlock]

/-- Where nothing is scheduled after it, refilling changed nothing. -/
theorem refilled_of_nil {s : State} (h : s.refilled.schedule = []) : s.refilled = s := by
  cases hs : s.schedule with
  | cons x r => exact refilled_of_cons hs
  | nil =>
    rw [refilled_of_empty hs] at h
    obtain hf | hf := foreverBlock_cases s.forever
    · exact refilled_of_rest hf
    · rw [show foreverBlock s.forever = [] from h] at hf; cases hf

/-- Refilling changes the model's own turns only. -/
theorem refilled_eq (s : State) :
    s.refilled = { s with schedule := s.refilled.schedule, forever := s.refilled.forever } := by
  unfold State.refilled; split <;> rfl

theorem fetch_refilled (s : State) : fetch s.refilled = fetch s := by rw [refilled_eq]; rfl

/-- In a legal configuration the step is the scheduled move. -/
theorem step_legal {s : State} (h : s.cfg.Legal) : step s = scheduledMove s.refilled := by
  unfold step machineStep
  rw [if_neg (not_not.2 h.1), if_neg (not_not.2 h.2)]

theorem step_default {s : State} (h : s.cfg.Legal) (hs : s.refilled.schedule = []) : step s = defaultMove s := by
  rw [step_legal h, scheduledMove, hs, refilled_of_nil hs]

theorem step_turn {s : State} (h : s.cfg.Legal) {x : Turn} {r : List Turn} (hs : s.refilled.schedule = x :: r) :
    step s = takeTurn x r s.refilled := by
  rw [step_legal h, scheduledMove, hs]

/-- A turn that never comes is not in the next block, nor among those after it. -/
theorem never_block {x : Turn} {f : Forever} (h : f.Never x) : x ∉ foreverBlock f ∧ (foreverNext f).Never x := by
  cases f with
  | rest => exact ⟨by simp [foreverBlock], h⟩
  | again ts => exact ⟨h, h⟩
  | free k n => exact ⟨h n (le_refl n), fun m hm => h m (by omega)⟩

theorem neverTurns_refilled {s : State} {x : Turn} (h : s.NeverTurns x) : s.refilled.NeverTurns x := by
  cases hs : s.schedule with
  | cons y r => rwa [refilled_of_cons hs]
  | nil => rw [refilled_of_empty hs]; exact never_block h.2

/-! ### The step that weak fairness promises (R137) -/

theorem defaultMove_of_fetch {s : State} {i : Instr} (h : fetch s = some i) : defaultMove s = exec i s := by
  simp [defaultMove, h]

theorem defaultMove_of_settle {s : State} (h : fetch s = none) (hp : s.ngPhase = .settle) :
    defaultMove s = .next (settleEnd s) := by
  simp [defaultMove, h, hp]

/-- Every step is a move, in a legal configuration. -/
theorem step_cases {s t : State} (h : step s = .next t) :
    s.cfg.Legal ∧ MachineMove s s.refilled.schedule s.refilled.forever t := by
  by_cases hl : s.cfg.Legal
  · rw [step_legal hl, refilled_eq] at h
    exact ⟨hl, machineMove_of_scheduled h⟩
  · exfalso
    unfold step machineStep at h
    split at h
    · cases h
    · split at h
      · cases h
      · exact hl ⟨not_not.1 ‹_›, not_not.1 ‹_›⟩

/-! ### Runs -/

theorem run_zero (s : State) : run 0 s = .next s := rfl

theorem run_succ {n : Nat} {s t : State} (h : step s = .next t) : run (n + 1) s = run n t := by
  have h' : core.step s = .next t := h
  simp only [run, Host.Core.run, h']
  rfl

/-- A run that goes on after its first `n` steps. -/
theorem run_add {n m : Nat} {s t : State} (h : run n s = .next t) : run (n + m) s = run m t := by
  induction n generalizing s with
  | zero => cases h; rw [Nat.zero_add]
  | succ n ih =>
    cases hs : step s with
    | next u => rw [run_succ hs] at h; rw [Nat.succ_add, run_succ hs]; exact ih h
    | fault r => cases r
    | refused r =>
      have hs' : core.step s = .refused r := hs
      simp only [run, Host.Core.run, hs'] at h
      cases h

/-- A legal configuration always has a next state. -/
theorem step_next {s : State} (h : s.cfg.Legal) : ∃ t, step s = .next t := by
  have hexec : ∀ {u : State} {i : Instr}, fetch u = some i → ∃ t, exec i u = .next t := fun hi =>
    let ⟨t, ht, _⟩ := engineMove_of_fetch hi; ⟨t, ht⟩
  have hdef : ∀ u, ∃ t, defaultMove u = .next t := by
    intro u
    unfold defaultMove
    split
    · exact hexec ‹_›
    · split <;> exact ⟨_, rfl⟩
  have heng : ∀ u, ∃ t, engineStep u = .next t := by
    intro u
    unfold engineStep
    split
    · exact hexec ‹_›
    · exact ⟨_, rfl⟩
  rw [step_legal h, scheduledMove]
  split
  · exact hdef _
  · unfold takeTurn
    split
    · exact heng _
    · split
      · exact heng _
      · exact ⟨_, rfl⟩
    · exact ⟨_, rfl⟩
    · split
      · exact ⟨_, rfl⟩
      · exact hdef _
    · split
      · exact ⟨_, rfl⟩
      · exact hdef _
    · exact hdef _

end Sys2Proof.Machine
end

