-- ==== Sys2Proof/Laws/PerInstr.lean ====
section
/-! SUPPORT. Statements made once for every instruction: each is encoded on the surface of its own row (the `format` column of
spec/opcode_table.json). -/

namespace Sys2Proof.Laws.EncodedSurface

/-- The encoding of `i` stands on the surface of `i`, whatever the configuration. -/
def Statement (i : Instr) : Prop := ∀ c : Config, (encode c i).surface = i.surface

theorem frTry : Statement (.frTry) := fun _ => rfl
theorem enc7 (bytes : List Byte) : Statement (.enc7 bytes) := fun _ => rfl
theorem dec7 (bytes : List Byte) : Statement (.dec7 bytes) := fun _ => rfl
theorem negDetect : Statement (.negDetect) := fun _ => rfl
theorem cbQuery (slot : Nat) : Statement (.cbQuery slot) := fun _ => rfl
theorem cbSave : Statement (.cbSave) := fun _ => rfl
theorem regAssign (slot : Nat) (path : Path) : Statement (.regAssign slot path) := fun _ => rfl
theorem regUploadOne (slot : Nat) : Statement (.regUploadOne slot) := fun _ => rfl
theorem regUploadAll : Statement (.regUploadAll) := fun _ => rfl
theorem regClear (slot : Nat) : Statement (.regClear slot) := fun _ => rfl
theorem rdSlot (slot : Nat) : Statement (.rdSlot slot) := fun _ => rfl
theorem rdSession : Statement (.rdSession) := fun _ => rfl
theorem rdQueue : Statement (.rdQueue) := fun _ => rfl
theorem illegal (op : Byte) : Statement (.illegal op) := fun _ => rfl
theorem dropData (x : BitVec 7) : Statement (.dropData x) := fun _ => rfl
theorem noteOff (channel : BitVec 4) (operands : ChanOperands) : Statement (.noteOff channel operands) := fun _ => rfl
theorem noteOn (channel : BitVec 4) (operands : ChanOperands) : Statement (.noteOn channel operands) := fun _ => rfl
theorem dropA0 (x : BitVec 4) : Statement (.dropA0 x) := fun _ => rfl
theorem controlChange (channel : BitVec 4) (operands : ChanOperands) : Statement (.controlChange channel operands) := fun _ => rfl
theorem dropC0 (x : BitVec 4) : Statement (.dropC0 x) := fun _ => rfl
theorem dropD0 (x : BitVec 4) : Statement (.dropD0 x) := fun _ => rfl
theorem dropE0 (x : BitVec 4) : Statement (.dropE0 x) := fun _ => rfl
theorem sysexStart : Statement (.sysexStart) := fun _ => rfl
theorem dropF1 : Statement (.dropF1) := fun _ => rfl
theorem dropF2 (x : BitVec 1) : Statement (.dropF2 x) := fun _ => rfl
theorem dropF4 (x : BitVec 2) : Statement (.dropF4 x) := fun _ => rfl
theorem dropF8 (x : BitVec 3) : Statement (.dropF8 x) := fun _ => rfl
theorem capEnd : Statement (.capEnd) := fun _ => rfl
theorem capData (x : BitVec 7) : Statement (.capData x) := fun _ => rfl
theorem capStatus80 (x : BitVec 6) : Statement (.capStatus80 x) := fun _ => rfl
theorem capStatusC0 (x : BitVec 5) : Statement (.capStatusC0 x) := fun _ => rfl
theorem capStatusE0 (x : BitVec 4) : Statement (.capStatusE0 x) := fun _ => rfl
theorem capStatusF0 (x : BitVec 2) : Statement (.capStatusF0 x) := fun _ => rfl
theorem capStatusF4 (x : BitVec 1) : Statement (.capStatusF4 x) := fun _ => rfl
theorem capStatusF6 : Statement (.capStatusF6) := fun _ => rfl
theorem capStatusF8 (x : BitVec 3) : Statement (.capStatusF8 x) := fun _ => rfl
theorem cmdUploadSample (slot : Byte) (payload : List Byte) : Statement (.cmdUploadSample slot payload) := fun _ => rfl
theorem cmdQuerySlot (slot : Byte) : Statement (.cmdQuerySlot slot) := fun _ => rfl
theorem cmdSaveProject : Statement (.cmdSaveProject) := fun _ => rfl
theorem inquiry : Statement (.inquiry) := fun _ => rfl

end Sys2Proof.Laws.EncodedSurface
end

