-- ==== Sys2Proof/Tests/Slice0.lean ====
section
/-! SUPPORT. The model's own tests. Expected values are those of spec/95_test_vectors.md (the vector is named in each test), of
the encoding tables of 30_encoding.md, or worked out by hand from the rule named. Theorems `witness_<Name>` show that the
hypotheses of `Obligations.<Name>` can be met, one conjunct for each clause. -/

namespace Sys2Proof.Tests
open Sys2Proof Sys2Proof.Machine

/-! ### Small states -/

/-- The next state, where there is one. -/
def after : Host.Outcome State Fault Refusal → Option State
  | .next s    => some s
  | .fault _   => none
  | .refused _ => none

/-- The responses given so far, and the bytes left in the FIFO, after an outcome. -/
def answers (o : Host.Outcome State Fault Refusal) : Option (List Response × List Byte) :=
  (after o).map fun s => (s.resp, s.rx)

/-- The frames sent so far, and the responses, after an outcome. -/
def sent (o : Host.Outcome State Fault Refusal) : Option (List TxRecord × List Response) :=
  (after o).map fun s => (s.tx, s.resp)

/-- A slot, the queue and the responses after an outcome. -/
def registry (i : Nat) (o : Host.Outcome State Fault Refusal) : Option (Slot × List Nat × List Response) :=
  (after o).map fun s => (s.slotAt i, s.queue, s.resp)

/-- The test configuration of spec 95 with a request in progress and `rx` in the FIFO. -/
def busy (op : Byte) (slot : Nat := 0) (rx : List Byte := []) (bytes : List Byte := []) : State :=
  { State.reset with eng := .busy, cur := some { op := op, slot := slot, path := "a.wav", bytes := bytes }, rx := rx }

/-- A `FR_TRY` in a capture that holds `buf`. -/
def capture (buf rx : List Byte) : State := { busy 0x01 (rx := rx) with frState := .capture, frBuf := buf }

/-- A `NEG_DETECT` in a phase. -/
def detect (p : NgPhase) (rx : List Byte := []) : State := { busy 0x10 (rx := rx) with ngPhase := p }

/-- Slot 5 holds `41 42 43` and stands in the queue; the session is connected; the sink's next answer is `a`. -/
def online (a : SinkAnswer) (s : State) : State :=
  { s with
    connected := true, matched := some [0x00, 0x20, 0x29], queue := [5], sinkNext := [a],
    slots := s.slots.set 5 { name := some "a.wav", data := some [0x41, 0x42, 0x43], size := 3, status := .loaded } }

/-- The upload frame of CB-9. -/
def frame5 : List Byte := [0xF0, 0x00, 0x20, 0x29, 0x00, 0x01, 0x05, 0x20, 0x50, 0x48, 0xF7]

/-- An answer `(code, none)`. -/
def only (c : ResultCode) : List Response := [{ code := c, value := .none }]

/-- An answer `(OK, message)`. -/
def gives (m : MidiMessage) : List Response := [{ code := .ok, value := .message m }]

/-! ### WellFormed refuses -/

theorem test_wf_illegal_in_table : ¬ (Instr.illegal 0x32).WellFormed := by decide
theorem test_wf_query_slot : ¬ (Instr.cmdQuerySlot 0x80).WellFormed := by decide
theorem test_wf_upload_slot : ¬ (Instr.cmdUploadSample 0x80 []).WellFormed := by decide
theorem test_wf_upload_long : ¬ (Instr.cmdUploadSample 0x00 (List.replicate 257 0x00)).WellFormed :=
  fun h => absurd h.2.1 (by simp only [List.length_replicate]; decide)
theorem test_wf_upload_byte : ¬ (Instr.cmdUploadSample 0x00 [0x80]).WellFormed := by decide
theorem test_wf_upload_mod8 : ¬ (Instr.cmdUploadSample 0x00 (List.replicate 7 0x00)).WellFormed := by decide
theorem test_config_slots : ¬ ({ numSlots := 0 } : Config).WellFormed ∧ ¬ ({ numSlots := 129 } : Config).WellFormed := by decide
theorem test_config_id : ¬ ({ mfrId := [0x01] } : Config).WellFormed ∧ ¬ ({ deviceId := 0x80 } : Config).WellFormed := by decide

/-! ### Decoding: one word for every row, written out from the tables of 30_encoding.md -/

theorem test_decode_requests :
    ([0x01, 0x02, 0x03, 0x10, 0x20, 0x21, 0x30].map fun op =>
        decodeRequest { op := op, slot := 9, path := "p", bytes := [0x80] }) =
      [.frTry, .enc7 [0x80], .dec7 [0x80], .negDetect, .cbQuery 9, .cbSave, .regAssign 9 "p"] ∧
    ([0x31, 0x32, 0x33, 0x40, 0x41, 0x42, 0x43].map fun op =>
        decodeRequest { op := op, slot := 9, path := "p", bytes := [0x80] }) =
      [.regUploadOne 9, .regUploadAll, .regClear 9, .rdSlot 9, .rdSession, .rdQueue, .illegal 0x43] := by decide

/-- A byte of each row of R47 in binary: fixed bits, then the free ones. -/
theorem test_decode_head :
    ([0b01010101, 0b10001010, 0b10011111, 0b10100001, 0b10110111, 0b11000010, 0b11010011].map fun b =>
        decodeHead [b, 0x12, 0x34]) =
      [.ok (.dropData 0b1010101), .ok (.noteOff 0b1010 (.complete 0x12 0x34)),
       .ok (.noteOn 0b1111 (.complete 0x12 0x34)), .ok (.dropA0 0b0001),
       .ok (.controlChange 0b0111 (.complete 0x12 0x34)), .ok (.dropC0 0b0010), .ok (.dropD0 0b0011)] ∧
    ([0b11100100, 0b11110000, 0b11110001, 0b11110011, 0b11110110, 0b11111101].map fun b => decodeHead [b]) =
      [.ok (.dropE0 0b0100), .ok .sysexStart, .ok .dropF1, .ok (.dropF2 0b1), .ok (.dropF4 0b10), .ok (.dropF8 0b101)] ∧
    decodeHead [0x80, 0x01] = .ok (.noteOff 0 .incomplete) ∧ decodeHead [] = .reject .emptyStream := by decide

/-- A byte of each row of R48 in binary. -/
theorem test_decode_capture :
    ([0b11110111, 0b01000001, 0b10110000, 0b11011000, 0b11100110, 0b11110010, 0b11110101, 0b11110110, 0b11111110].map
        fun b => decodeCapture [b]) =
      [.ok .capEnd, .ok (.capData 0b1000001), .ok (.capStatus80 0b110000), .ok (.capStatusC0 0b11000),
       .ok (.capStatusE0 0b0110), .ok (.capStatusF0 0b10), .ok (.capStatusF4 0b1), .ok .capStatusF6,
       .ok (.capStatusF8 0b110)] := by decide

theorem test_decode_frames :
    decodeFrame Config.default frame5 = .ok (.cmdUploadSample 0x05 [0x20, 0x50, 0x48]) ∧
    decodeFrame Config.default [0xF0, 0x00, 0x20, 0x29, 0x00, 0x02, 0x0F, 0xF7] = .ok (.cmdQuerySlot 0x0F) ∧
    decodeFrame Config.default [0xF0, 0x00, 0x20, 0x29, 0x00, 0x03, 0xF7] = .ok .cmdSaveProject ∧
    decodeFrame Config.default [0xF0, 0x7E, 0x00, 0x06, 0x01, 0xF7] = .ok .inquiry := by decide

theorem test_decode_frames_refused :
    decodeFrame Config.default [0xF0, 0x00, 0x20, 0x29, 0x01, 0x03, 0xF7] = .reject .badHeader ∧
    decodeFrame Config.default [0xF0, 0x00, 0x20, 0x29, 0x00, 0x04, 0xF7] = .reject .badCommand ∧
    decodeFrame Config.default [0xF0, 0x00, 0x20, 0x29, 0x00, 0x03] = .reject .notTerminated ∧
    decodeFrame Config.default [0xF0, 0x00, 0x20, 0x29, 0x00, 0x02, 0x80, 0xF7] = .reject .badPayload := by decide

/-- Rows of the opcode table as bare words (log entry 11). -/
theorem test_table_words :
    decodeTableWord 8 0x31 = some (.regUploadOne 0) ∧ decodeTableWord 8 0x00 = some (.dropData 0) ∧
    decodeTableWord 8 0x95 = some (.noteOn 5 (.complete 0 0)) ∧ decodeTableWord 8 0xF7 = some .capEnd ∧
    decodeTableWord 48 0xF7010600_7EF0 = some .inquiry := by decide

/-- The placed word is the instruction of the next step, on each surface. -/
theorem test_fetch_word :
    after (step (State.reset.withFetchWord 8 0x42)) = after (exec .rdQueue (State.reset.withFetchWord 8 0x42)) ∧
    after (step (State.reset.withFetchWord 8 0xB3)) =
      after (exec (.controlChange 3 (.complete 0 0)) (State.reset.withFetchWord 8 0xB3)) ∧
    after (step (State.reset.withFetchWord 8 0xF7)) = after (exec .capEnd (State.reset.withFetchWord 8 0xF7)) := by decide

/-! ### Host requests -/

theorem test_frTry_empty : answers (step (busy 0x01)) = some (only .noMessage, []) := by decide -- FR-1
theorem test_frTry_noteOn :
    answers (step (busy 0x01 (rx := [0x9F, 0x7F, 0x7F, 0x11]))) = some (gives (.noteOn 15 0x7F 0x7F), [0x11]) := by decide -- FR-3
theorem test_enc7 :
    answers (step (busy 0x02 (bytes := [0xDE, 0xAD, 0xBE, 0xEF]))) =
      some ([{ code := .ok, value := .bytes [0x6F, 0x2B, 0x37, 0x6E] }], []) := by decide -- C7-1
theorem test_enc7_whole_block : enc7 [0x01, 0x02, 0x03, 0x04, 0x05, 0x06, 0x07] =
    [0x00, 0x40, 0x40, 0x30, 0x20, 0x14, 0x0C, 0x07] := by decide -- C7-1
theorem test_dec7 :
    answers (step (busy 0x03 (bytes := List.replicate 8 0x01))) =
      some ([{ code := .ok, value := .bytes [0x02, 0x04, 0x08, 0x10, 0x20, 0x40, 0x81] }], []) := by decide -- C7-3
theorem test_dec7_bit7 :
    (after (step (busy 0x03 (bytes := [0x80, 0x00])))).map (fun s => s.resp.map fun r =>
      match r.value with
      | .bytes v => v.length
      | _ => 99) = some [1] := by decide -- C7-3, last row
theorem test_negDetect_sends :
    (after (step { detect .idle with sinkNext := [.ok] })).map (fun s => (s.tx.map TxRecord.emitted, s.ngPhase, s.resp)) =
      some ([[0xF0, 0x7E, 0x00, 0x06, 0x01, 0xF7]], .settle, []) := by decide -- R85
theorem test_negDetect_scan :
    (after (step { detect .scan with ngCollected := [[0x01, 0x02, 0x03], [0x00, 0x20, 0x29, 0x7F]] })).map
      (fun s => (s.connected, s.matched, s.ngPhase, s.resp)) =
      some (true, some [0x00, 0x20, 0x29], .idle, only .ok) := by decide -- NG-5
theorem test_cbQuery :
    sent (step (online .ok (busy 0x20 3))) =
      some ([{ frame := [0xF0, 0x00, 0x20, 0x29, 0x00, 0x02, 0x03, 0xF7], answer := .ok,
               emitted := [0xF0, 0x00, 0x20, 0x29, 0x00, 0x02, 0x03, 0xF7] }], only .ok) := by decide -- CB-1
theorem test_cbQuery_range : sent (step (busy 0x20 16)) = some ([], only .declinedRange) := by decide -- CB-4
theorem test_cbSave_error :
    sent (step (online (.ioError 2) (busy 0x21))) =
      some ([{ frame := [0xF0, 0x00, 0x20, 0x29, 0x00, 0x03, 0xF7], answer := .ioError, emitted := [0xF0, 0x00] }],
            only .ioError) := by decide -- CB-7
theorem test_cbSave_declined : sent (step (busy 0x21)) = some ([], only .declinedNotConnected) := by decide -- CB-8
theorem test_regAssign_reads :
    (after (step { busy 0x30 5 with storageNext := [.ok [0x41]] })).map (fun s => (s.storageReply, s.storageNext, s.resp)) =
      some (some (.ok [0x41]), [], []) := by decide -- R100
theorem test_regAssign_stores :
    registry 5 (step { busy 0x30 5 with storageReply := some (.ok [0x41, 0x42, 0x43]) }) =
      some ({ name := some "a.wav", data := some [0x41, 0x42, 0x43], size := 3, status := .loaded }, [5], only .ok) := by
  decide -- RQ-1
theorem test_regUploadOne : sent (step (online .ok (busy 0x31 5))) =
    some ([{ frame := frame5, answer := .ok, emitted := frame5 }], only .ok) := by decide -- RQ-8
theorem test_regUploadOne_empty : sent (step (busy 0x31 6)) = some ([], only .declinedEmpty) := by decide -- RQ-12
theorem test_regUploadAll_dispatches :
    registry 5 (step { online .ok (busy 0x32) with upActive := true }) =
      some ({ name := some "a.wav", data := some [0x41, 0x42, 0x43], size := 3, status := .uploaded }, [], []) := by
  decide -- RQ-16
theorem test_regUploadAll_ends :
    (after (step { busy 0x32 with upActive := true })).map (fun s => (s.upActive, s.eng, s.resp)) =
      some (false, .idle, only .ok) := by decide -- RQ-15
theorem test_regClear : registry 5 (step (online .ok (busy 0x33 5))) =
    some ({ name := none, data := none, size := 0, status := .empty }, [5], only .ok) := by decide -- RQ-20
theorem test_rdSlot : registry 0 (step (busy 0x40 0)) =
    some ({ name := none, data := none, size := 0, status := .empty }, [],
      [{ code := .ok, value := .slot { name := none, data := none, size := 0, status := .empty } }]) := by decide -- RQ-22
theorem test_rdSlot_range : answers (step (busy 0x40 16)) = some (only .declinedRange, []) := by decide -- RQ-23
theorem test_rdSession : answers (step (busy 0x41)) =
    some ([{ code := .ok, value := .session false none }], []) := by decide -- RQ-24
theorem test_rdQueue : answers (step { busy 0x42 with queue := [5, 7] }) =
    some ([{ code := .ok, value := .queue [5, 7] }], []) := by decide -- RQ-25
theorem test_illegal : answers (step (busy 0x34)) = some (only .illegalOp, []) := by decide -- HP-3

/-! ### Inbound head bytes (FR_TRY in progress) -/

theorem test_dropData : answers (exec (.dropData 0x05) (busy 0x01 (rx := [0x05]))) = some (only .noMessage, []) := by
  decide -- FR-14
theorem test_noteOff : answers (exec (.noteOff 0 (.complete 0x90 0x3C)) (busy 0x01 (rx := [0x80, 0x90, 0x3C, 0x64]))) =
    some (gives (.noteOff 0 0x90 0x3C), [0x64]) := by decide -- FR-12
theorem test_noteOn : answers (exec (.noteOn 0 (.complete 0x3C 0x00)) (busy 0x01 (rx := [0x90, 0x3C, 0x00]))) =
    some (gives (.noteOn 0 0x3C 0x00), []) := by decide -- FR-4
theorem test_noteOn_incomplete : answers (exec (.noteOn 0 .incomplete) (busy 0x01 (rx := [0x90, 0x3C]))) =
    some (only .noMessage, [0x90, 0x3C]) := by decide -- FR-9
theorem test_dropA0 : answers (exec (.dropA0 5) (busy 0x01 (rx := [0xA5, 0x3C, 0x40]))) =
    some (only .noMessage, [0x3C, 0x40]) := by decide -- FR-15
theorem test_controlChange : answers (exec (.controlChange 15 (.complete 0x78 0x00)) (busy 0x01 (rx := [0xBF, 0x78, 0x00]))) =
    some (gives (.controlChange 15 0x78 0x00), []) := by decide -- FR-8
theorem test_dropC0 : answers (exec (.dropC0 0) (busy 0x01 (rx := [0xC0, 0x05]))) = some (only .noMessage, [0x05]) := by
  decide -- FR-13
theorem test_dropD0 : answers (exec (.dropD0 3) (busy 0x01 (rx := [0xD3, 0x05]))) = some (only .noMessage, [0x05]) := by
  decide -- R70
theorem test_dropE0 : answers (exec (.dropE0 0) (busy 0x01 (rx := [0xE0, 0x00, 0x40]))) =
    some (only .noMessage, [0x00, 0x40]) := by decide -- FR-16
theorem test_sysexStart :
    (after (exec .sysexStart (busy 0x01 (rx := [0xF0, 0xF7])))).map (fun s => (s.frState, s.frBuf, s.rx, s.resp)) =
      some (.capture, [], [0xF7], []) := by decide -- R71
theorem test_dropF1 : answers (exec .dropF1 (busy 0x01 (rx := [0xF1, 0x05]))) = some (only .noMessage, [0x05]) := by
  decide -- R70
theorem test_dropF2 : answers (exec (.dropF2 0) (busy 0x01 (rx := [0xF2, 0x05]))) = some (only .noMessage, [0x05]) := by
  decide -- R70
theorem test_dropF4 : answers (exec (.dropF4 3) (busy 0x01 (rx := [0xF7]))) = some (only .noMessage, []) := by
  decide -- FR-17
theorem test_dropF8 : answers (exec (.dropF8 0) (busy 0x01 (rx := [0xF8, 0x90, 0x3C, 0x64]))) =
    some (only .noMessage, [0x90, 0x3C, 0x64]) := by decide -- FR-18

/-! ### Inbound capture bytes -/

/-- The capture buffer and the FIFO after an outcome. -/
def buffer (o : Host.Outcome State Fault Refusal) : Option (List Byte × List Byte) := (after o).map fun s => (s.frBuf, s.rx)

theorem test_capEnd : answers (exec .capEnd (capture [0x00, 0x20, 0x29] [0xF7, 0x90])) =
    some (gives (.sysEx [0x00, 0x20, 0x29]), [0x90]) := by decide -- FR-21
theorem test_capEnd_drain :
    (after (exec .capEnd { capture [0x01] [0xF7] with cur := some (requestOf 0x10), ngPhase := .drain })).map
      (fun s => (s.ngCollected, s.frState, s.frBuf, s.resp)) = some ([[0x01]], .idle, [], []) := by decide -- R87
theorem test_capData : buffer (exec (.capData 0x02) (capture [0x01] [0x02])) = some ([0x01, 0x02], []) := by decide -- FR-26
theorem test_capStatus80 : buffer (exec (.capStatus80 0x10) (capture [] [0x90, 0x3C])) = some ([0x90], [0x3C]) := by
  decide -- FR-24
theorem test_capStatusC0 : buffer (exec (.capStatusC0 0x1F) (capture [] [0xDF])) = some ([0xDF], []) := by decide -- R72
theorem test_capStatusE0 : buffer (exec (.capStatusE0 0x1) (capture [] [0xE1])) = some ([0xE1], []) := by decide -- R72
theorem test_capStatusF0 : buffer (exec (.capStatusF0 0) (capture [] [0xF0, 0x01])) = some ([0xF0], [0x01]) := by
  decide -- FR-23
theorem test_capStatusF4 : buffer (exec (.capStatusF4 1) (capture [] [0xF5])) = some ([0xF5], []) := by decide -- R72
theorem test_capStatusF6 : buffer (exec .capStatusF6 (capture [] [0xF6])) = some ([0xF6], []) := by decide -- R72
theorem test_capStatusF8 : buffer (exec (.capStatusF8 0) (capture [0x01] [0xF8])) = some ([0x01, 0xF8], []) := by
  decide -- FR-22

/-! ### Outbound frames -/

theorem test_cmdUploadSample :
    sent (exec (.cmdUploadSample 0x05 [0x20, 0x50, 0x48]) (online .ok (busy 0x31 5))) =
      some ([{ frame := frame5, answer := .ok, emitted := frame5 }], only .ok) := by decide -- CB-9
theorem test_cmdQuerySlot :
    (sent (exec (.cmdQuerySlot 0x0F) (online .ok (busy 0x20 15)))).map (fun p => p.1.map TxRecord.frame) =
      some [[0xF0, 0x00, 0x20, 0x29, 0x00, 0x02, 0x0F, 0xF7]] := by decide -- CB-2
theorem test_cmdSaveProject :
    (sent (exec .cmdSaveProject (online .ok (busy 0x21)))).map (fun p => p.1.map TxRecord.frame) =
      some [[0xF0, 0x00, 0x20, 0x29, 0x00, 0x03, 0xF7]] := by decide -- CB-6
theorem test_inquiry_error :
    (after (exec .inquiry { detect .idle [0xF0] with sinkNext := [.ioError 0] })).map
      (fun s => (s.tx.map TxRecord.emitted, s.rx, s.ngPhase, s.resp)) =
      some ([[]], [0xF0], .idle, only .ioError) := by decide -- NG-8

/-! ### The environment's steps and the host program syntax -/

theorem test_rxPush : (after (step { capture [0x01] [] with schedule := [.rxPush 0x02] })).map (fun s => (s.rx, s.frBuf)) =
    some ([0x02], [0x01]) := by decide -- R29
theorem test_program_schedule :
    ((State.reset.withProgram [.ngDetect, .envTxOk, .envRx [0xF0], .envSettle]).schedule,
      (State.reset.withProgram [.ngDetect, .envTxOk]).sinkNext) =
      ([.request (requestOf 0x10), .untilHold, .rxPush 0xF0, .untilHold, .settleEnd], [.ok]) := by decide -- R59
theorem test_line_text : Line.text (.rqAssign 0 "kick.wav") = "rq.assign 0, \"kick.wav\"" ∧
    Line.text (.envRx [0xF0, 0x0A]) = "env.rx F0 0A" := by decide -- R59

/-- The turns without end come again where the schedule is empty (R130), with a fair turn after them (R137). -/
theorem test_forever :
    (after (step { detect .drain with forever := .again [.rxPush 0x05, .engine] })).map
      (fun s => (s.rx, s.ngPhase, s.schedule)) = some ([0x05], .drain, [.engine, .fair]) := by decide

/-- The fair turn is the settle timer's where the engine has no step, and the engine's where it has one (R137). -/
theorem test_fair :
    (after (step { detect .settle with schedule := [.fair] })).map (fun s => (s.ngPhase, s.schedule)) = some (.drain, []) ∧
    answers (step { busy 0x01 (rx := [0xF8, 0x01]) with schedule := [.fair] }) = some (only .noMessage, [0x01]) := by decide

/-! ### Witnesses: the hypotheses of the obligations can be met -/

/-- A request of the `busy` states. -/
def ask (op : Byte) (slot : Nat := 0) : Request := { op := op, slot := slot, path := "a.wav", bytes := [] }

theorem inv_busy (op : Byte) (slot : Nat) (rx bytes : List Byte) : (busy op slot rx bytes).Inv where
  legal := (by decide : Config.default.Legal)
  idleIff := by simp [busy]
  idleBuf _ := rfl
  captureOp h := by cases h
  phaseOp h := absurd rfl h
  idleCollected _ := rfl
  passOp h := by cases h
  replyOp h := absurd rfl h
  slotCount := rfl
  slotsOk := by
    intro r hr
    obtain rfl : r = Slot.cleared := List.eq_of_mem_replicate hr
    exact ⟨fun _ => ⟨rfl, rfl⟩, fun h => absurd rfl h⟩
  queueNodup := List.nodup_nil
  queueRange _ h := by cases h
  txOk _ h := by cases h
  session h := by cases h

theorem inv_capture (buf rx : List Byte) : (capture buf rx).Inv :=
  { inv_busy 0x01 0 rx [] with idleBuf := fun h => (by cases h), captureOp := fun _ => .inl rfl }

/-- The invariant says nothing of the turns to come. -/
theorem inv_turns {s : State} (h : s.Inv) (r : List Turn) (f : Forever) : { s with schedule := r, forever := f }.Inv :=
  ⟨h.legal, h.idleIff, h.idleBuf, h.captureOp, h.phaseOp, h.idleCollected, h.passOp, h.replyOp, h.slotCount, h.slotsOk,
    h.queueNodup, h.queueRange, h.txOk, h.session⟩

theorem running_busy (op : Byte) (slot : Nat) (rx : List Byte) : (busy op slot rx).Running (ask op slot) := ⟨rfl, rfl⟩

theorem witness_DecodeOfEncodeIsTheInstruction : Config.default.Legal ∧ (Instr.illegal 0xFF).WellFormed ∧
    (Instr.cmdQuerySlot 0x7F).WellFormed ∧ (Instr.cmdUploadSample 0x7F [0x7F]).WellFormed := by decide

/-- Boundary values of the illegal ranges; no op code falls under both clauses. -/
theorem witness_IllegalOpCodesAreAnswered :
    (∀ op ∈ ([0x00, 0x04, 0x0F, 0x11, 0x1F, 0x22, 0x2F, 0x34, 0x3F, 0x43, 0xFF] : List Byte), op ∉ legalOps) ∧
    ∀ op : Byte, ((op = 0x00 ∨ (0x04 ≤ op ∧ op ≤ 0x0F) ∨ (0x11 ≤ op ∧ op ≤ 0x1F) ∨ (0x22 ≤ op ∧ op ≤ 0x2F) ∨
        (0x34 ≤ op ∧ op ≤ 0x3F) ∨ 0x43 ≤ op) ↔ op ∉ legalOps) := by decide

theorem witness_StepRunsTheDecodedInstruction :
    (capture [] [0x01]).cfg.Legal ∧ (capture [] [0x01]).Running (ask 0x01) ∧ (capture [] [0x01]).refilled.schedule = [] ∧
    { capture [] [0x01] with schedule := [.engine] }.refilled.schedule = [.engine] ∧
    { capture [] [0x01] with schedule := [.fair] }.refilled.schedule = [.fair] ∧
    { capture [] [0x01] with forever := .again [.untilHold] }.refilled.schedule = [.untilHold, .fair] ∧
    ((capture [] [0x01]).frState = .capture ∧ decodeCapture (capture [] [0x01]).rx = .ok (.capData 0x01)) ∧
    ((detect .drain [0xF0]).Running (ask 0x10) ∧ (detect .drain [0xF0]).frState = .idle ∧
      (detect .drain [0xF0]).ngPhase = .drain ∧ decodeHead (detect .drain [0xF0]).rx = .ok .sysexStart) ∧
    ((detect .drain).rx = [] ∧ (detect .scan).ngPhase = .scan ∧ (busy 0x32).Running (ask 0x32) ∧
      (busy 0x32).frState = .idle ∧ decodeRequest (ask 0x32) = .regUploadAll) :=
  ⟨by decide, running_busy 0x01 0 [0x01], rfl, rfl, rfl, rfl, ⟨rfl, by decide⟩, ⟨running_busy 0x10 0 [0xF0], rfl, rfl, by decide⟩,
    rfl, rfl, running_busy 0x32 0 [], rfl, rfl⟩

theorem witness_FrStepIsTheDecodedRow :
    ((detect .drain [0xB0]).frState = .idle ∧ decodeHead (detect .drain [0xB0]).rx = .ok (.controlChange 0 .incomplete) ∧
      (detect .drain [0xB0]).ngPhase = .drain) ∧
    ((capture [] [0xF7]).frState = .capture ∧ decodeCapture (capture [] [0xF7]).rx = .ok .capEnd) := by decide

theorem witness_RequestIsTakenOnlyWhenIdle :
    (State.reset.cfg.Legal ∧ { State.reset with schedule := [.request (ask 0x42)] }.eng = .idle ∧
      { State.reset with schedule := [.request (ask 0x42)] }.refilled.schedule = [.request (ask 0x42)]) ∧
    ({ busy 0x42 with schedule := [.request (ask 0x42)] }.eng = .busy ∧
      ∃ t, step { busy 0x42 with schedule := [.request (ask 0x42)] } = .next t) :=
  ⟨⟨by decide, rfl, rfl⟩, rfl, _, rfl⟩

theorem witness_RxPushAppendsAndAloneLiftsTheHold :
    ({ capture [] [] with forever := .again [.rxPush 0xF7] }.cfg.Legal ∧
      { capture [] [] with forever := .again [.rxPush 0xF7] }.refilled.schedule = [.rxPush 0xF7, .fair]) ∧
    ((capture [0x01] []).Inv ∧ (capture [0x01] []).frState = .capture ∧ (capture [0x01] []).rx = [] ∧
      (capture [0x01] []).refilled.schedule = [] ∧ ∃ t, step (capture [0x01] []) = .next t) :=
  ⟨⟨by decide, rfl⟩, inv_capture _ _, rfl, rfl, rfl, _, rfl⟩

theorem witness_UnterminatedSysExNeverFinishes :
    (capture [] [0x01, 0x02]).Inv ∧ (capture [] [0x01, 0x02]).frState = .capture ∧ 0xF7 ∉ (capture [] [0x01, 0x02]).rx ∧
    (capture [] [0x01, 0x02]).NeverTurns (.rxPush 0xF7) ∧
    { capture [] [0x01, 0x02] with forever := .again [.rxPush 0xF8] }.NeverTurns (.rxPush 0xF7) ∧
    ∃ t, run 3 (capture [] [0x01, 0x02]) = .next t :=
  ⟨inv_capture _ _, rfl, by decide, ⟨by decide, trivial⟩, ⟨by decide, (by decide : Turn.rxPush 0xF7 ∉ [Turn.rxPush 0xF8, .fair])⟩, _, rfl⟩

theorem witness_SettleWaitEndsByTheTimer :
    (detect .settle).cfg.Legal ∧ (detect .settle).Running (ask 0x10) ∧ (detect .settle).frState = .idle ∧
    (detect .settle).ngPhase = .settle ∧ (detect .settle).refilled.schedule = [] ∧
    ∀ x ∈ ([.engine, .untilHold, .rxPush 0xF7, .settleEnd, .fair, .request (ask 0x42)] : List Turn),
      { detect .settle with schedule := [x] }.refilled.schedule = [x] :=
  ⟨by decide, running_busy 0x10 0 [], rfl, rfl, rfl, by decide⟩

theorem witness_SettleEndOnlyInTheSettlePhase :
    ({ detect .settle with schedule := [.settleEnd] }.cfg.Legal ∧
      { detect .settle with schedule := [.settleEnd] }.refilled.schedule = [.settleEnd] ∧
      (detect .settle).ngPhase = .settle) ∧
    (∃ t, step (detect .settle) = .next t ∧ t.ngPhase = .drain) ∧
    { detect .drain with schedule := [.settleEnd] }.refilled.schedule = [.settleEnd] ∧
    { detect .drain with schedule := [.settleEnd] }.ngPhase ≠ .settle ∧
    ∃ t, step { detect .drain with schedule := [.settleEnd] } = .next t :=
  ⟨⟨by decide, rfl, rfl⟩, ⟨_, rfl, rfl⟩, rfl, by decide, _, rfl⟩

theorem witness_EveryLegalStateHasANextState :
    State.reset.cfg.Legal ∧ ¬ { Config.default with numSlots := 129 }.WellFormed ∧
    ({ Config.default with hardened := [.captureLimit 1] }.WellFormed ∧
      { Config.default with hardened := [.captureLimit 1] }.hardened ≠ []) ∧
    ({ busy 0x01 (rx := [0xF8]) with forever := .again [.rxPush 0x00] }.Inv ∧
      fetch { busy 0x01 (rx := [0xF8]) with forever := .again [.rxPush 0x00] } = some (.dropF8 0)) :=
  ⟨by decide, by decide, by decide, inv_turns (inv_busy _ _ _ _) _ _, by decide⟩

theorem witness_ResetSetsEveryElement : 15 < Config.default.numSlots := by decide

theorem witness_InvariantHoldsAtReset :
    { Config.default with numSlots := 1 }.Legal ∧ { Config.default with numSlots := 128 }.Legal := by decide

theorem witness_EveryStepKeepsTheInvariant : (busy 0x01).Inv ∧ ∃ t, step (busy 0x01) = .next t := ⟨inv_busy _ _ _ _, _, rfl⟩

theorem witness_EveryFrameSentIsSevenBitClean :
    (busy 0x10).Inv ∧ (busy 0x10).FramesClean ∧ ∃ t, step (busy 0x10) = .next t := by
  refine ⟨inv_busy _ _ _ _, fun t h => (by cases h), ?_⟩
  show ∃ t, Host.Outcome.next (ngSend (busy 0x10)) = .next t
  exact ⟨_, rfl⟩

theorem witness_SentAndAnsweredNeverChange : ∃ t, step (online .ok (busy 0x21)) = .next t := ⟨_, rfl⟩

theorem witness_OneResponsePerOperation :
    ∃ t, step (busy 0x42) = .next t ∧ t.resp ≠ (busy 0x42).resp ∧ (busy 0x42).eng = .busy ∧ t.eng = .idle :=
  ⟨_, rfl, by decide, rfl, rfl⟩

theorem witness_SessionIsWrittenOnlyByTheScan :
    ∃ t, step { detect .scan with ngCollected := [[0x00, 0x20, 0x29]] } = .next t ∧
      t.connected ≠ { detect .scan with ngCollected := [[0x00, 0x20, 0x29]] }.connected := ⟨_, rfl, by decide⟩

/-- To `Loaded`, to `Uploaded` by each of the two uploads, and to `Empty`. -/
theorem witness_SlotStatusTransitions :
    (∃ t, step { busy 0x30 5 with storageReply := some (.ok []) } = .next t ∧
      (t.slotAt 5).status ≠ ({ busy 0x30 5 with storageReply := some (.ok []) }.slotAt 5).status) ∧
    (∃ t, step (online .ok (busy 0x31 5)) = .next t ∧
      (t.slotAt 5).status ≠ ((online .ok (busy 0x31 5)).slotAt 5).status) ∧
    (∃ t, step { online .ok (busy 0x32) with upActive := true } = .next t ∧
      (t.slotAt 5).status ≠ ({ online .ok (busy 0x32) with upActive := true }.slotAt 5).status) ∧
    (∃ t, step (online .ok (busy 0x33 5)) = .next t ∧
      (t.slotAt 5).status ≠ ((online .ok (busy 0x33 5)).slotAt 5).status) :=
  ⟨⟨_, rfl, by decide⟩, ⟨_, rfl, by decide⟩, ⟨_, rfl, by decide⟩, ⟨_, rfl, by decide⟩⟩

theorem witness_SlotsAreWrittenOnlyByRegistryOperations :
    ∃ t, step (online .ok (busy 0x31 5)) = .next t ∧ t.slots ≠ (online .ok (busy 0x31 5)).slots := ⟨_, rfl, by decide⟩

theorem witness_QueueChangesOnlyByAssignAndPass :
    (∃ t, step { busy 0x30 5 with storageReply := some (.ok []) } = .next t ∧ t.queue ≠ (busy 0x30 5).queue) ∧
    (∃ t, step { online .ok (busy 0x32) with upActive := true } = .next t ∧ t.queue ≠ (online .ok (busy 0x32)).queue) :=
  ⟨⟨_, rfl, by decide⟩, ⟨_, rfl, by decide⟩⟩

theorem witness_OnlyTheInquiryIsSentWhileDisconnected :
    { busy 0x10 with sinkNext := [.ok] }.connected = false ∧
    ∃ t, step { busy 0x10 with sinkNext := [.ok] } = .next t ∧ t.tx ≠ [] := ⟨rfl, _, rfl, by decide⟩

theorem witness_DeclinedResultsHaveNoSideEffect :
    ∃ t, step (busy 0x21) = .next t ∧
      t.resp = (busy 0x21).resp ++ [{ code := .declinedNotConnected, value := .none }] ∧
      ResultCode.Declined .declinedNotConnected := ⟨_, rfl, rfl, trivial⟩

theorem witness_FrTryOnAnEmptyFifo :
    ((busy 0x01).frState = .idle ∧ (busy 0x01).rx = [] ∧ (busy 0x01).curOp = some 0x01) ∧
    ((detect .drain).curOp = some 0x10 ∧ (detect .drain).ngPhase = .drain) := by decide

theorem witness_ChannelMessagesAreDelivered :
    (busy 0x01 (rx := [0x9F, 1, 2, 3])).frState = .idle ∧ (busy 0x01 (rx := [0x9F, 1, 2, 3])).rx = [0x9F, 1, 2, 3] ∧
    (0x9F : Byte) &&& 0xF0 = 0x90 ∧ (0x80 : Byte) &&& 0xF0 = 0x80 ∧ (0xBF : Byte) &&& 0xF0 = 0xB0 ∧
    (busy 0x01).curOp = some 0x01 ∧ (detect .drain).curOp = some 0x10 ∧ (detect .drain).ngPhase = .drain := by decide

theorem witness_IncompleteChannelMessagesStay :
    (busy 0x01 (rx := [0x9F])).frState = .idle ∧ (busy 0x01 (rx := [0x9F])).rx.length < 3 ∧
    (detect .drain [0xB0, 0x01]).rx.length < 3 ∧ (0x9F : Byte) &&& 0xF0 = 0x90 ∧ (0x8F : Byte) &&& 0xF0 = 0x80 ∧
    (0xB0 : Byte) &&& 0xF0 = 0xB0 ∧ (busy 0x01).curOp = some 0x01 ∧ (detect .drain).curOp = some 0x10 := by decide

/-- Boundary values of the dropped ranges, and a row that drops. -/
theorem witness_DroppedBytesAreConsumedAlone :
    (∀ h ∈ ([0x00, 0x7F, 0xA0, 0xAF, 0xC0, 0xEF, 0xF1, 0xF7, 0xFF] : List Byte),
      h ≤ 0x7F ∨ (0xA0 ≤ h ∧ h ≤ 0xAF) ∨ (0xC0 ≤ h ∧ h ≤ 0xEF) ∨ 0xF1 ≤ h) ∧
    (busy 0x01 (rx := [0x7F])).frState = .idle ∧ (Instr.dropF8 7).Drops ∧ (busy 0x01).curOp = some 0x01 ∧
    (detect .drain).curOp = some 0x10 ∧ (detect .drain).ngPhase = .drain :=
  ⟨by decide, rfl, trivial, rfl, rfl, rfl⟩

theorem witness_SysExStartBeginsACapture :
    (detect .drain [0xF0]).frState = .idle ∧ (detect .drain [0xF0]).rx = [0xF0] ∧ (detect .drain [0xF0]).ngPhase = .drain := by
  decide

theorem witness_CaptureStoresEveryByteButF7 :
    ((capture [] [0xF6]).frState = .capture ∧ (capture [] [0xF6]).rx = [0xF6] ∧ (0xF6 : Byte) ≠ 0xF7) ∧
    (capture [] []).rx = [] := by decide

theorem witness_CaptureRowsStoreTheirByte :
    (capture [] [0xFF]).rx = [0xFF] ∧ (Instr.capStatusF8 7).stored = some 0xFF ∧ (Instr.capData 0).stored = some 0x00 := by
  decide

theorem witness_CaptureEndDeliversThePayload :
    ((capture [0x01] [0xF7]).frState = .capture ∧ (capture [0x01] [0xF7]).rx = [0xF7] ∧
      (capture [0x01] [0xF7]).curOp = some 0x01) ∧
    { capture [0x01] [0xF7] with cur := some (ask 0x10), ngPhase := .drain }.curOp = some 0x10 := by decide

theorem witness_WholeSysExFrameIsDelivered :
    (busy 0x01 (rx := [0xF0, 0x01, 0xF7, 0x90])).Alone ∧
    (busy 0x01 (rx := [0xF0, 0x01, 0xF7, 0x90])).Running (ask 0x01) ∧
    (busy 0x01 (rx := [0xF0, 0x01, 0xF7, 0x90])).frBuf = [] ∧
    (busy 0x01 (rx := [0xF0, 0x01, 0xF7, 0x90])).rx = 0xF0 :: [0x01] ++ 0xF7 :: [0x90] ∧ 0xF7 ∉ ([0x01] : List Byte) :=
  ⟨⟨by decide, rfl, rfl⟩, running_busy 0x01 0 _, rfl, rfl, by decide⟩

theorem witness_FramerTouchesNoOtherComponent :
    Instr.OfFramer .frTry ∧ Instr.OfFramer (.dropData 0) ∧ Instr.OfFramer .capEnd :=
  ⟨.inl rfl, .inr (.inl rfl), .inr (.inr rfl)⟩

theorem witness_Dec7IsTheEightBitGroups : ∀ b ∈ ([0x00, 0x7F] : List Byte), b ≤ 0x7F#8 := by decide

theorem witness_Dec7OfOtherBytesHasItsLength : ¬ (∀ b ∈ ([0x00, 0x80] : List Byte), b ≤ 0x7F#8) := by decide

theorem witness_EncodeAfterDecodeLosesTheLastByte :
    (∀ b ∈ (List.replicate 8 0x01 : List Byte), b ≤ 0x7F#8) ∧ ∀ b ∈ ([0x7F, 0x7F, 0x7F] : List Byte), b ≤ 0x7F#8 := by decide

theorem witness_CodecBlockStructure :
    (List.replicate 7 (0xFF : Byte)).length % 7 = 0 ∧ (List.replicate 8 (0x01 : Byte)).length % 8 = 0 ∧
    224 ≤ (List.replicate 224 (0x41 : Byte)).length := by simp only [List.length_replicate]; decide

theorem witness_InquiryIsSentFirst :
    (busy 0x10).curOp = some 0x10 ∧ (busy 0x10).ngPhase = .idle ∧ { busy 0x10 with sinkNext := [.ok] }.sinkAnswer = .ok ∧
    { busy 0x10 with sinkNext := [.ioError 6] }.sinkAnswer = .ioError 6 := by decide

/-- A payload of just the 3 bytes matches; one of 2 bytes, and one of 3 others, do not. -/
theorem witness_ScanSetsTheSession :
    (detect .scan).curOp = some 0x10 ∧ (detect .scan).ngPhase = .scan ∧
    (∃ p ∈ ([[0x00, 0x20, 0x29]] : List (List Byte)), 3 ≤ p.length ∧ p.take 3 = (detect .scan).cfg.mfrId) ∧
    (∀ p ∈ ([[0x00, 0x20], [0x00, 0x20, 0x2A]] : List (List Byte)), ¬ (3 ≤ p.length ∧ p.take 3 = (detect .scan).cfg.mfrId)) := by
  decide

theorem witness_DetectionFollowsTheFirstThreeBytes :
    (detect .drain [0xF0, 0x00, 0x20, 0x29, 0xF7]).Alone ∧
    (detect .drain [0xF0, 0x00, 0x20, 0x29, 0xF7]).Running (ask 0x10) ∧
    (detect .drain [0xF0, 0x00, 0x20, 0x29, 0xF7]).rx = 0xF0 :: [0x00, 0x20, 0x29] ++ [0xF7] ∧
    0xF7 ∉ ([0x00, 0x20, 0x29] : List Byte) ∧
    (detect .drain [0xF0, 0x00, 0x20, 0x29, 0xF7]).ngCollected = [] ∧
    ([0x00, 0x20, 0x29] : List Byte).take 3 = Config.default.mfrId ∧
    ([0x00, 0x20] : List Byte).take 3 ≠ Config.default.mfrId :=
  ⟨⟨by decide, rfl, rfl⟩, running_busy 0x10 0 [0xF0, 0x00, 0x20, 0x29, 0xF7], rfl, by decide, rfl, rfl, by decide⟩

theorem witness_CommandsAreDeclinedWhileDisconnected :
    let s := { online .ok (busy 0x31 5) with connected := false }
    s.connected = false ∧ 15 < s.cfg.numSlots ∧ 5 < s.cfg.numSlots ∧ (s.slotAt 5).status ≠ .empty ∧
    (s.slotAt 5).data = some [0x41, 0x42, 0x43] := by decide

theorem witness_FrameRowsAreTheirOperations :
    (detect .idle).ngPhase = .idle ∧ (online .ok (busy 0x20 15)).sinkAnswer = .ok ∧
    (0x0F : Byte).toNat < (online .ok (busy 0x20 15)).cfg.numSlots ∧ (online .ok (busy 0x20 15)).connected = true ∧
    encode Config.default (.cmdQuerySlot 0x0F) = .frame [0xF0, 0x00, 0x20, 0x29, 0x00, 0x02, 0x0F, 0xF7] ∧
    encode Config.default .cmdSaveProject = .frame [0xF0, 0x00, 0x20, 0x29, 0x00, 0x03, 0xF7] ∧
    encode Config.default .inquiry = .frame [0xF0, 0x7E, 0x00, 0x06, 0x01, 0xF7] := by decide

/-- The clauses at the edge of the range, on both answers of the sink. -/
theorem witness_QuerySlotCommand :
    (busy 0x20).cfg.WellFormed ∧ ¬ 16 < (busy 0x20).cfg.numSlots ∧ 15 < (busy 0x20).cfg.numSlots ∧ (busy 0x20).connected = false ∧
    (online .ok (busy 0x20)).connected = true ∧ (online .ok (busy 0x20)).sinkAnswer = .ok ∧
    (online (.ioError 0) (busy 0x20)).sinkAnswer = .ioError 0 := by decide

theorem witness_SaveProjectCommand :
    (busy 0x21).cfg.WellFormed ∧ (busy 0x21).connected = false ∧ (online .ok (busy 0x21)).connected = true ∧
    (online .ok (busy 0x21)).sinkAnswer = .ok ∧ (online (.ioError 7) (busy 0x21)).sinkAnswer = .ioError 7 := by decide

theorem witness_UploadFrameIsSent :
    (busy 0x31 5).connected = false ∧ (online .ok (busy 0x31 5)).connected = true ∧ (online .ok (busy 0x31 5)).sinkAnswer = .ok ∧
    (online (.ioError 1) (busy 0x31 5)).sinkAnswer = .ioError 1 ∧ (online .ok (busy 0x31 5)).curOp = some 0x31 ∧
    (online .ok (busy 0x32)).curOp = some 0x32 := by decide

theorem witness_SameDataGivesTheSameFrame :
    let s := online .ok (busy 0x31 5)
    let s' := online (.ioError 0) (busy 0x31 5 [0xF0])
    s.cfg.WellFormed ∧ s.cfg = s'.cfg ∧ 5 < s.cfg.numSlots ∧ s.connected = true ∧ s'.connected = true ∧
    (s.slotAt 5).data = some [0x41, 0x42, 0x43] ∧ (s'.slotAt 5).data = some [0x41, 0x42, 0x43] ∧
    (s.slotAt 5).status ≠ .empty ∧ (s'.slotAt 5).status ≠ .empty ∧
    (∃ t, exec (.regUploadOne 5) s = .next t) ∧ ∃ t', exec (.regUploadOne 5) s' = .next t' :=
  ⟨by decide, by decide, by decide, rfl, rfl, by decide, by decide, by decide, by decide, ⟨_, rfl⟩, _, rfl⟩

theorem witness_OutOfRangeSlotsAreDeclined : (busy 0x33 16).cfg.numSlots ≤ 16 := by decide

theorem witness_AssignReadsThenStores :
    15 < (busy 0x30 15).cfg.numSlots ∧ (busy 0x30 15).storageReply = none ∧
    { busy 0x30 15 with storageReply := some .ioError }.storageReply = some .ioError ∧
    { busy 0x30 15 with storageReply := some (.ok []) }.storageReply = some (.ok []) := by decide

theorem witness_UploadOneDispatchesTheSlot :
    5 < (busy 0x31 5).cfg.numSlots ∧ ((busy 0x31 5).slotAt 5).status = .empty ∧
    ((online .ok (busy 0x31 5)).slotAt 5).status ≠ .empty ∧
    ((online .ok (busy 0x31 5)).slotAt 5).data = some [0x41, 0x42, 0x43] ∧
    { online .ok (busy 0x31 5) with connected := false }.connected = false ∧
    (online .ok (busy 0x31 5)).connected = true ∧ (online .ok (busy 0x31 5)).sinkAnswer = .ok ∧
    (online (.ioError 4) (busy 0x31 5)).sinkAnswer = .ioError 4 := by decide

theorem witness_UploadOneIsItsFrame :
    5 < (online .ok (busy 0x31 5)).cfg.numSlots ∧ (online .ok (busy 0x31 5)).cfg.numSlots ≤ 128 ∧
    (online .ok (busy 0x31 5)).curOp = some 0x31 ∧ ((online .ok (busy 0x31 5)).slotAt 5).status ≠ .empty ∧
    ((online .ok (busy 0x31 5)).slotAt 5).data = some [0x41, 0x42, 0x43] := by decide

theorem witness_UploadAllStepsThroughTheQueue :
    let s := { online .ok (busy 0x32) with upActive := true }
    (busy 0x32).upActive = false ∧ ({ busy 0x32 with upActive := true }.upActive = true ∧ (busy 0x32).queue = []) ∧
    (s.upActive = true ∧ s.queue = [5] ∧ (s.slotAt 5).status ≠ .empty ∧ (s.slotAt 5).data = some [0x41, 0x42, 0x43] ∧
      s.connected = true ∧ s.sinkAnswer = .ok ∧ { s with sinkNext := [.ioError 3] }.sinkAnswer = .ioError 3) ∧
    { s with connected := false }.connected = false ∧ (s.slotAt 7).status = .empty := by decide

theorem witness_PassDrainsTheQueue :
    (busy 0x32).Inv ∧ (busy 0x32).Alone ∧ (busy 0x32).Running (ask 0x32) ∧ (busy 0x32).upActive = false :=
  ⟨inv_busy _ _ _ _, ⟨by decide, rfl, rfl⟩, running_busy 0x32 0 [], rfl⟩

theorem witness_ClearEmptiesTheSlot : 15 < (busy 0x33).cfg.numSlots ∧ ¬ 16 < (busy 0x33).cfg.numSlots := by decide

theorem witness_ReadsAnswerTheirElement :
    15 < (busy 0x40).cfg.numSlots ∧ (busy 0x40).slots[15]? = some Slot.cleared ∧ ¬ 16 < (busy 0x40).cfg.numSlots := by decide

/-- The ends of the dropped ranges, and a feed of two bytes. -/
theorem witness_ADrainCanBeFedForEver :
    let s := { detect .drain [0x00, 0x7F, 0xA0, 0xAF, 0xC0, 0xEF] with
      forever := .again [.rxPush 0xF1, .rxPush 0xFF] }
    s.cfg.Legal ∧ s.Running (ask 0x10) ∧ s.frState = .idle ∧ s.ngPhase = .drain ∧ s.schedule = [] ∧
    s.forever = .again (([0xF1, 0xFF] : List Byte).map .rxPush) ∧
    ∀ b ∈ s.rx ++ [0xF1, 0xFF], b ≤ 0x7F ∨ (0xA0 ≤ b ∧ b ≤ 0xAF) ∨ (0xC0 ≤ b ∧ b ≤ 0xEF) ∨ 0xF1 ≤ b :=
  ⟨by decide, running_busy 0x10 0 [0x00, 0x7F, 0xA0, 0xAF, 0xC0, 0xEF], rfl, rfl, rfl, rfl, by decide⟩

end Sys2Proof.Tests
end

section
/-! The request decoder (R55, R56): which requests are illegal, and what an illegal one does (R108). -/

namespace Sys2Proof

/-- No op code of R55 lies in the ranges that R56 calls illegal. -/
theorem not_mem_legalOps_of_illegalRange {op : Byte}
    (h : op = 0x00 ∨ (0x04 ≤ op ∧ op ≤ 0x0F) ∨ (0x11 ≤ op ∧ op ≤ 0x1F) ∨ (0x22 ≤ op ∧ op ≤ 0x2F) ∨
      (0x34 ≤ op ∧ op ≤ 0x3F) ∨ 0x43 ≤ op) : op ∉ legalOps := by
  intro hop
  have disjoint : ∀ b ∈ legalOps, ¬ (b = 0x00 ∨ (0x04 ≤ b ∧ b ≤ 0x0F) ∨ (0x11 ≤ b ∧ b ≤ 0x1F) ∨
      (0x22 ≤ b ∧ b ≤ 0x2F) ∨ (0x34 ≤ b ∧ b ≤ 0x3F) ∨ 0x43 ≤ b) := by decide
  exact disjoint op hop h

/-- An op code of R55 selects its own row, whatever the operands. -/
theorem decodeRequest_ne_illegal {q : Request} (h : q.op ∈ legalOps) (op : Byte) : decodeRequest q ≠ .illegal op := by
  simp only [legalOps, List.mem_cons, List.not_mem_nil, or_false] at h
  obtain h | h | h | h | h | h | h | h | h | h | h | h | h := h
  all_goals simp [decodeRequest, h]

namespace Machine

/-- An illegal request is finished at once (R56, R108). -/
theorem exec_illegal (op : Byte) (s : State) : exec (.illegal op) s = .next (s.finish .illegalOp .none) := by
  rfl

/-- Settles O4: the ranges of R56 are disjoint from the table of R55, the illegal row is `finish` with `ILLEGAL_OP`
(R108), and every op code of the table selects a row of its own. -/
theorem illegalOpCodesAreAnswered : Obligations.IllegalOpCodesAreAnswered := by
  intro q s
  constructor
  · intro hrange
    have hdecode : decodeRequest q = .illegal q.op := decodeRequest_illegal (not_mem_legalOps_of_illegalRange hrange)
    exact ⟨hdecode, exec_illegal q.op s⟩
  · intro hlegal op
    exact decodeRequest_ne_illegal hlegal op

end Machine
end Sys2Proof
end

section
/-! The framer (40_framer.md): `F0` at the head starts a capture (R71), and every byte but `F7` is stored in it (R72). -/

namespace Sys2Proof

/-- The row of `F0` at the head, whatever follows it (R47). -/
theorem decodeHead_sysexStart (rest : List Byte) : decodeHead (0xF0 :: rest) = .ok .sysexStart := by
  have hrow : classifyHead 0xF0 = some .sysexStart := (classifyHead_kind 0xF0).1.2 rfl
  simp only [decodeHead, hrow, HeadClass.instr]

/-- A byte other than `F7` in a capture decodes to a row that stores exactly that byte (R48, R72). -/
theorem decodeCapture_stored {b : Byte} (hb : b ≠ 0xF7) (rest : List Byte) :
    ∃ i, decodeCapture (b :: rest) = .ok i ∧ i.stored = some b := by
  obtain ⟨c, hclass, hdecode⟩ := decodeCapture_cons b rest
  have hstored := captureClass_stored b hb
  rw [hclass] at hstored
  exact ⟨c.instr b, hdecode, hstored⟩

namespace Machine

/-- `FR_TRY` is one step of `FrStep` (R62). -/
theorem exec_frTry (s : State) : exec .frTry s = .next (frStep s) := by
  rfl

/-- In the drain, `NEG_DETECT` is one step of `FrStep` (R87). -/
theorem exec_negDetect_of_drain {s : State} (hp : s.ngPhase = .drain) : exec .negDetect s = .next (frStep s) := by
  simp only [exec, execNegDetect, negDetect, hp]

theorem exec_sysexStart (s : State) : exec .sysexStart s = .next (frStart s) := by
  rfl

/-- The start of a frame removes the head byte alone (R71). -/
theorem frStart_of_cons {s : State} {h : Byte} {rest : List Byte} (hrx : s.rx = h :: rest) :
    frStart s = { s with rx := rest, frState := .capture, frBuf := [] } := by
  simp only [frStart, State.rxDrop, hrx, List.drop_one, List.tail_cons]

/-- Storing a byte removes the head byte alone (R72). -/
theorem frStore_of_cons {s : State} {h : Byte} {rest : List Byte} (hrx : s.rx = h :: rest) (b : Byte) :
    frStore b s = { s with rx := rest, frBuf := s.frBuf ++ [b] } := by
  simp only [frStore, State.rxDrop, hrx, List.drop_one, List.tail_cons]

/-- In a capture the engine waits for a byte: with an empty FIFO it has no step (R72), whatever request it serves. -/
theorem fetch_of_capture_nil {s : State} (hf : s.frState = .capture) (hrx : s.rx = []) : fetch s = none := by
  unfold fetch
  split
  · rw [hf, hrx]; rfl
  · rfl

/-- Settles O29: `F0` decodes to its own row, whose effect is `frStart`, and that is the step of `FrStep` for both
callers. -/
theorem sysExStartBeginsACapture : Obligations.SysExStartBeginsACapture := by
  intro s rest hidle hrx
  have hdecode : decodeHead s.rx = .ok .sysexStart := by rw [hrx]; exact decodeHead_sysexStart rest
  have hstep : exec .sysexStart s = .next (frStep s) := exec_decodeHead hidle hdecode
  refine ⟨hdecode, ?_, ?_, fun hdrain => ?_⟩
  · rw [exec_sysexStart, frStart_of_cons hrx]
  · rw [exec_frTry, hstep]
  · rw [exec_negDetect_of_drain hdrain, hstep]

/-- Settles O30: a byte other than `F7` decodes to a row that stores it, and that row is the step of `FrStep`; an empty
FIFO decodes to nothing. -/
theorem captureStoresEveryByteButF7 : Obligations.CaptureStoresEveryByteButF7 := by
  intro s hcapture
  constructor
  · intro b rest hrx hb
    obtain ⟨i, hdecode, hstored⟩ := decodeCapture_stored hb rest
    rw [← hrx] at hdecode
    have hstep : exec i s = .next (frStep s) := exec_decodeCapture hcapture hdecode
    refine ⟨i, hdecode, hstored, ?_, ?_⟩
    · rw [exec_of_stored hstored, frStore_of_cons hrx]
    · rw [exec_frTry, hstep]
  · intro hrx
    exact fetch_of_capture_nil hcapture hrx

end Machine
end Sys2Proof
end

section
/-! The codec (41_codec.md): `ENC7` emits the whole groups of 7 of its input's `8n` bits, so what it drops is the remainder
of `8n` by 7 (R76, R77). -/

namespace Sys2Proof.Machine

@[simp] theorem bits8_length (d : List Byte) : (bits8 d).length = 8 * d.length :=
  flatMap_byteBits_length 8 d

@[simp] theorem enc7_length (d : List Byte) : (enc7 d).length = 8 * d.length / 7 := by
  rw [enc7_eq_groups, groups_length (by decide), bits8_length]

/-- The bits of the input that no output byte holds. -/
theorem enc7_dropped (d : List Byte) : (bits8 d).length - 7 * (enc7 d).length = 8 * d.length % 7 := by
  rw [bits8_length, enc7_length, Nat.mod_eq_sub_mul_div]

/-- The remainder of `8n` by 7 is that of `n`, so only whole blocks of 7 bytes are encoded without loss. -/
theorem enc7_lossless_iff (d : List Byte) : (bits8 d).length = 7 * (enc7 d).length ↔ d.length % 7 = 0 := by
  have hblocks : 7 ∣ 8 * d.length ↔ d.length % 7 = 0 := by omega
  rw [bits8_length, enc7_length, eq_comm, Nat.mul_div_eq_iff_dvd, hblocks]

/-- Settles O36: `ENC7` emits `8n / 7` whole groups of 7 bits, so it drops the remainder `8n % 7`, which is 0 exactly where
7 divides `n`. -/
theorem enc7LengthAndLoss : Obligations.Enc7LengthAndLoss := by
  intro d
  exact ⟨enc7_length d, enc7_dropped d, enc7_lossless_iff d⟩

end Sys2Proof.Machine
end

section
/-! The negotiator (42_negotiator.md): what the send does by the sink's answer (R85), and what the scan does by whether a
collected payload matches (R88). -/

namespace Sys2Proof.Machine

/-- In the phase of its first step, `NEG_DETECT` sends (R85). -/
theorem exec_negDetect_of_idle {s : State} (hp : s.ngPhase = .idle) : exec .negDetect s = .next (ngSend s) := by
  simp only [exec, execNegDetect, negDetect, hp]

/-- In the scan phase, `NEG_DETECT` scans (R88). -/
theorem exec_negDetect_of_scan {s : State} (hp : s.ngPhase = .scan) : exec .negDetect s = .next (ngScan s) := by
  simp only [exec, execNegDetect, negDetect, hp]

/-- Where the sink takes the inquiry, the settle wait begins (R85). -/
theorem ngSend_ok {s : State} (h : s.sinkAnswer = .ok) :
    ngSend s =
      { s.sinkTaken with
        tx := s.tx ++ [{ frame := Config.inquiryFrame, answer := .ok, emitted := Config.inquiryFrame }],
        ngPhase := .settle } := by
  simp only [ngSend, txWrite_ok h, State.txPush, sinkTaken_tx]

/-- Where the sink fails, the operation ends with `IO_ERROR` (R85). -/
theorem ngSend_ioError {s : State} {k : Nat} (h : s.sinkAnswer = .ioError k) :
    ngSend s =
      { s.sinkTaken with
        tx := s.tx ++ [{ frame := Config.inquiryFrame, answer := .ioError, emitted := Config.inquiryFrame.take k }],
        resp := s.resp ++ [{ code := .ioError, value := .none }], cur := none, eng := .idle } := by
  simp only [ngSend, txWrite_ioError h, State.txPush, State.finish, sinkTaken_tx, sinkTaken_resp]

/-- Settles O42: the first step of `NEG_DETECT` is the send of the inquiry frame (R53), split by the sink's answer. -/
theorem inquiryIsSentFirst : Obligations.InquiryIsSentFirst := by
  intro s _ hidle
  have hsend : exec .negDetect s = .next (ngSend s) := exec_negDetect_of_idle hidle
  constructor
  · intro hok
    rw [hsend, ngSend_ok hok]
    rfl
  · intro k herr
    rw [hsend, ngSend_ioError herr]
    rfl

/-- A miss writes `S.connected` alone, and only with `NEG_CLEAR_ON_MISS` (R88). -/
theorem missConnected_eq (s : State) :
    s.missConnected = { s with connected := if s.cfg.negClearOnMiss then false else s.connected } := by
  unfold State.missConnected
  split <;> rfl

/-- The scan of a collection with a match (R88). -/
theorem ngScan_of_match {s : State} (h : ∃ p ∈ s.ngCollected, PayloadMatches s.cfg p) :
    ngScan s = (ngReset s.setConnected).finish .ok .none :=
  if_pos h

/-- The scan of a collection without a match (R88). -/
theorem ngScan_of_miss {s : State} (h : ∀ p ∈ s.ngCollected, ¬ PayloadMatches s.cfg p) :
    ngScan s = (ngReset s.missConnected).finish .notFound .none :=
  if_neg fun ⟨p, hp, hmatch⟩ => h p hp hmatch

/-- Settles O43: in the scan phase `NEG_DETECT` is one scan, split by whether a collected payload starts with `MFR_ID`. -/
theorem scanSetsTheSession : Obligations.ScanSetsTheSession := by
  intro s _ hscan
  have hstep : exec .negDetect s = .next (ngScan s) := exec_negDetect_of_scan hscan
  constructor
  · intro hmatch
    rw [hstep, ngScan_of_match hmatch]
    rfl
  · intro hmiss
    rw [hstep, ngScan_of_miss hmiss, missConnected_eq]
    rfl

end Sys2Proof.Machine
end

section
/-! The registry (44_registry_queue.md): what `REG_CLEAR` does by whether its slot is in range (R104). -/

namespace Sys2Proof.Machine

/-- `REG_CLEAR` is one step of its operation (R104). -/
theorem exec_regClear (i : Nat) (s : State) : exec (.regClear i) s = .next (regClear i s) := by
  rfl

/-- In range, the slot is set to its reset value and the operation ends with `OK` (R104). -/
theorem regClear_of_inRange {s : State} {i : Nat} (h : s.InRange i) :
    regClear i s = (s.setSlot i Slot.cleared).finish .ok .none :=
  if_pos h

/-- Out of range, `REG_CLEAR` is declined (R104, R116). -/
theorem regClear_of_not_inRange {s : State} {i : Nat} (h : ¬ s.InRange i) :
    regClear i s = s.finish .declinedRange .none :=
  if_neg h

/-- Settles O57: `REG_CLEAR` is one step, split by the range of its slot; `setSlot` and `finish` leave the queue. -/
theorem clearEmptiesTheSlot : Obligations.ClearEmptiesTheSlot := by
  intro s i
  constructor
  · intro hrange
    rw [exec_regClear, regClear_of_inRange hrange]
    rfl
  · intro hrange
    rw [exec_regClear, regClear_of_not_inRange hrange]
    rfl

end Sys2Proof.Machine
end

section
/-! The exceptions (60_exceptions.md): what an engine move answers, and that a declined result comes from a `finish` of the
state as it was (R112). -/

namespace Sys2Proof.Machine

/-- The code of a write is `OK` or `IO_ERROR`, never a declined result (R93). -/
theorem not_declined_code (a : IoAnswer) : ¬ a.code.Declined := by
  cases a <;> exact not_false

@[simp] theorem uploadDone_resp (i : Nat) (c : ResultCode) (s : State) : (uploadDone i c s).resp = s.resp := by
  obtain ⟨-, h⟩ | ⟨-, h⟩ := uploadDone_cases i c s
  · rw [h, setStatus_resp]
  · rw [h]

/-- How a move from `s` to `t` answers (R112): not at all; with a result that is not declined, whatever else it changes; or
with a declined result, and then the end of the operation is all it does. -/
inductive Answer (s t : State) : Prop
  | silent (hresp : t.resp = s.resp)
  | undeclined {c : ResultCode} {v : ResponseValue} (hc : ¬ c.Declined)
      (hresp : t.resp = s.resp ++ [{ code := c, value := v }])
  | declined {c : ResultCode} (hc : c.Declined) (ht : t = s.finish c .none)

/-- A declined result read from the response comes from a `finish` of the state before. -/
theorem Answer.eq_finish {s t : State} {c : ResultCode} {v : ResponseValue} (h : Answer s t)
    (hresp : t.resp = s.resp ++ [{ code := c, value := v }]) (hc : c.Declined) : v = .none ∧ t = s.finish c .none := by
  cases h with
  | silent hsilent =>
    rw [hsilent] at hresp
    simp at hresp
  | undeclined hc' hresp' =>
    rw [hresp] at hresp'
    obtain ⟨rfl, rfl⟩ : _ ∧ _ := by simpa using hresp'
    exact absurd hc hc'
  | declined hc' ht =>
    rw [ht, finish_resp] at hresp
    obtain ⟨rfl, rfl⟩ : _ ∧ _ := by simpa using hresp
    exact ⟨rfl, ht⟩

/-! ### The answer of each operation -/

/-- The framer returns to its caller with no declined result (R62, R87). -/
theorem frReturn_answer (m : Option MidiMessage) (n : Nat) {s u : State} (hu : u.resp = s.resp) :
    Answer s (frReturn m n u) := by
  obtain ⟨-, c, v, hc, h⟩ | ⟨-, -, h⟩ | ⟨-, -, l, h⟩ | ⟨-, -, h⟩ := frReturn_cases m n u <;> rw [h]
  · have hundeclined : ¬ c.Declined := by obtain rfl | rfl := hc <;> exact not_false
    exact .undeclined hundeclined (by rw [finish_resp, hu])
  · exact .silent hu
  · exact .silent hu
  · exact .silent hu

theorem frStep_answer (s : State) : Answer s (frStep s) := by
  obtain ⟨-, -, h⟩ | ⟨-, -, h⟩ | ⟨-, -, m, h⟩ | ⟨-, -, h⟩ | ⟨-, -, h⟩ | ⟨-, -, h⟩ | ⟨-, -, h⟩ | ⟨-, b, r, -, -, h⟩ :=
    frStep_cases s <;> rw [h]
  · exact frReturn_answer _ _ rfl
  · exact frReturn_answer _ _ rfl
  · exact frReturn_answer _ _ rfl
  · exact frReturn_answer _ _ rfl
  · exact .silent rfl
  · exact .silent rfl
  · exact frReturn_answer _ _ rfl
  · exact .silent rfl

theorem ngSend_answer (s : State) : Answer s (ngSend s) := by
  cases h : s.sinkAnswer with
  | ok => exact .silent (by rw [ngSend_ok h, sinkTaken_resp])
  | ioError k => exact .undeclined (c := .ioError) not_false (by rw [ngSend_ioError h])

theorem ngScan_answer (s : State) : Answer s (ngScan s) := by
  unfold ngScan
  split
  · exact .undeclined (c := .ok) not_false rfl
  · exact .undeclined (c := .notFound) not_false (by rw [finish_resp, ngReset_resp, missConnected_resp])

/-- A CB command is declined while disconnected, with no byte sent (R92), and else answers with the code of its write. -/
theorem cbCommand_answer (cmd : Byte) (p : List Byte) (s : State) : Answer s (cbCommand cmd p s) := by
  unfold cbCommand
  obtain ⟨-, h⟩ | ⟨-, h⟩ := cbSend_cases cmd p s <;> rw [h]
  · exact .declined (c := .declinedNotConnected) trivial rfl
  · exact .undeclined (v := .none) (not_declined_code (sinkIo s.sinkAnswer)) (by simp)

theorem cbQuery_answer (i : Nat) (s : State) : Answer s (cbQuery i s) := by
  unfold cbQuery
  split
  · exact cbCommand_answer _ _ s
  · exact .declined (c := .declinedRange) trivial rfl

/-- `REG_ASSIGN` is declined by its range check alone, before the storage is read (R100). -/
theorem regAssign_answer (i : Nat) (path : Path) (s : State) : Answer s (regAssign i path s) := by
  unfold regAssign
  split
  · split
    · exact .silent (by simp [State.storageRead])
    · unfold assignFinish
      split
      · exact .undeclined (c := .storageError) not_false rfl
      · exact .undeclined (c := .ok) (v := .none) not_false (by simp)
  · exact .declined (c := .declinedRange) trivial rfl

/-- `REG_UPLOAD_ONE` is declined by the range, the slot's data or the connection (R116), and each of them leaves the state
before the write. -/
theorem regUploadOne_answer (i : Nat) (s : State) : Answer s (regUploadOne i s) := by
  unfold regUploadOne
  split
  · obtain ⟨-, h⟩ | ⟨-, -, h⟩ | ⟨d, -, -, h⟩ := dispatch_cases i s <;> rw [h]
    · exact .declined (c := .declinedEmpty) trivial rfl
    · exact .declined (c := .declinedNotConnected) trivial rfl
    · exact .undeclined (v := .none) (not_declined_code (sinkIo s.sinkAnswer)) (by simp)
  · exact .declined (c := .declinedRange) trivial rfl

/-- An upload dispatch answers nothing itself: the pass discards its result (R103). -/
theorem dispatch_resp (i : Nat) (s : State) : (dispatch i s).2.resp = s.resp := by
  obtain ⟨-, h⟩ | ⟨-, -, h⟩ | ⟨d, -, -, h⟩ := dispatch_cases i s <;> simp [h]

theorem regUploadAll_answer (s : State) : Answer s (regUploadAll s) := by
  unfold regUploadAll
  split
  · split
    · exact .undeclined (c := .ok) not_false rfl
    · exact .silent (by rw [dispatch_resp])
  · exact .silent rfl

theorem regClear_answer (i : Nat) (s : State) : Answer s (regClear i s) := by
  by_cases h : s.InRange i
  · exact .undeclined (c := .ok) not_false (by rw [regClear_of_inRange h]; rfl)
  · exact .declined (c := .declinedRange) trivial (regClear_of_not_inRange h)

/-! ### The answer of a step -/

theorem EngineMove.answer {s t : State} (h : EngineMove s t) : Answer s t := by
  cases h with
  | framer _ => exact frStep_answer s
  | codec v n _ _ => exact .undeclined (c := .ok) not_false rfl
  | send _ _ _ => exact ngSend_answer s
  | scan _ _ _ => exact ngScan_answer s
  | query q _ _ _ => exact cbQuery_answer q.slot s
  | save _ _ => exact cbCommand_answer 0x03 [] s
  | assign q _ _ _ => exact regAssign_answer q.slot q.path s
  | uploadOne q _ _ _ => exact regUploadOne_answer q.slot s
  | uploadAll _ _ => exact regUploadAll_answer s
  | clear q _ _ _ => exact regClear_answer q.slot s
  | read v c _ _ hc =>
    obtain rfl | ⟨rfl, rfl⟩ := hc
    · exact .undeclined (c := .ok) not_false rfl
    · exact .declined (c := .declinedRange) trivial rfl
  | illegal op _ _ _ => exact .declined (c := .illegalOp) trivial rfl

/-- A step answers as an engine move of the state with other turns to come does: the steps of the environment are silent. -/
theorem MachineMove.answer {s t : State} {sch : List Turn} {f : Forever} (h : MachineMove s sch f t) :
    ∃ r, Answer { s with schedule := r, forever := f } t := by
  cases h with
  | engine r i _ _ _ hm => exact ⟨r, hm.answer⟩
  | push b r _ => exact ⟨r, .silent rfl⟩
  | settle r _ _ => exact ⟨r, .silent rfl⟩
  | request q r _ _ => exact ⟨r, .silent rfl⟩
  | rest r _ => exact ⟨r, .silent rfl⟩

/-- Settles O24: a declined answer is a `finish` of the state with other turns to come, and `finish` writes nothing but the
response and the end of the operation. -/
theorem declinedResultsHaveNoSideEffect : Obligations.DeclinedResultsHaveNoSideEffect := by
  intro s t code v hstep hresp hdeclined
  obtain ⟨-, hmove⟩ := step_cases hstep
  obtain ⟨r, hanswer⟩ := hmove.answer
  obtain ⟨hv, ht⟩ := hanswer.eq_finish hresp hdeclined
  exact ⟨hv, by rw [ht]; rfl⟩

end Sys2Proof.Machine
end

section
/-! The decoder (30_encoding.md): the tables of R47 and R48 give every byte one row, a row's byte gives back the row and its
free bits, and a command frame (R51, R52) gives back its command. -/

namespace Sys2Proof

/-! ### One row for every byte (R47, R48) -/

/-- The head rows exclude each other: a matching row is the one classified. -/
theorem classifyHead_of_matches {c : HeadClass} {h : Byte} (hm : c.Matches h) : classifyHead h = some c := by
  revert h
  cases c <;> decide

/-- The capture rows exclude each other: a matching row is the one classified. -/
theorem classifyCapture_of_matches {c : CaptureClass} {b : Byte} (hm : c.Matches b) : classifyCapture b = some c := by
  revert b
  cases c <;> decide

theorem decodeHead_of_matches {c : HeadClass} {h : Byte} (hm : c.Matches h) (rest : List Byte) :
    decodeHead (h :: rest) = .ok (c.instr h rest) := by
  simp only [decodeHead, classifyHead_of_matches hm]

theorem decodeCapture_of_matches {c : CaptureClass} {b : Byte} (hm : c.Matches b) (rest : List Byte) :
    decodeCapture (b :: rest) = .ok (c.instr b) := by
  simp only [decodeCapture, classifyCapture_of_matches hm]

/-- Settles O2: the classified row matches, any matching row is the classified one, and it is the one decoded. -/
theorem everyInboundByteHasOneRow : Obligations.EveryInboundByteHasOneRow := by
  intro h rest
  obtain ⟨c, hhead, hdecode⟩ := decodeHead_cons h rest
  obtain ⟨d, hcapture, hdecode'⟩ := decodeCapture_cons h rest
  refine ⟨⟨c, classifyHead_matches hhead, fun c' hc' => ?_, hdecode⟩,
    ⟨d, classifyCapture_matches hcapture, fun d' hd' => ?_, hdecode'⟩⟩
  · exact Option.some.inj ((classifyHead_of_matches hc').symm.trans hhead)
  · exact Option.some.inj ((classifyCapture_of_matches hd').symm.trans hcapture)

/-! ### The byte of a row (R47, R48) -/

/-- A byte made of a row's fixed bits and `n` free ones matches the row and gives the free bits back. -/
def RowByteFits (n : Nat) (row : Byte × Byte) : Prop :=
  ∀ x : BitVec n, rowByte row.1 x &&& row.2 = row.1 ∧ (rowByte row.1 x).setWidth n = x

theorem rowByteFits_data : RowByteFits 7 (0x00, 0x80) := by unfold RowByteFits; decide
theorem rowByteFits_80_C0 : RowByteFits 6 (0x80, 0xC0) := by unfold RowByteFits; decide
theorem rowByteFits_C0_E0 : RowByteFits 5 (0xC0, 0xE0) := by unfold RowByteFits; decide
theorem rowByteFits_F0_FC : RowByteFits 2 (0xF0, 0xFC) := by unfold RowByteFits; decide
theorem rowByteFits_F2_FE : RowByteFits 1 (0xF2, 0xFE) := by unfold RowByteFits; decide
theorem rowByteFits_F4_FE : RowByteFits 1 (0xF4, 0xFE) := by unfold RowByteFits; decide
theorem rowByteFits_F4_FC : RowByteFits 2 (0xF4, 0xFC) := by unfold RowByteFits; decide
theorem rowByteFits_F8_F8 : RowByteFits 3 (0xF8, 0xF8) := by unfold RowByteFits; decide

/-- The rows of one status nibble, with a channel or four free bits below it. -/
theorem rowByteFits_nibble {fixed : Byte} (h : fixed ∈ ([0x80, 0x90, 0xA0, 0xB0, 0xC0, 0xD0, 0xE0] : List Byte)) :
    RowByteFits 4 (fixed, 0xF0) := by
  unfold RowByteFits
  revert fixed
  decide

/-- A head row whose only operand is its free bits. -/
theorem decodeHead_rowByte {n : Nat} (r : HeadClass) (f : BitVec n → Instr) (hr : RowByteFits n r.row)
    (hf : ∀ h rest, r.instr h rest = f (h.setWidth n)) (x : BitVec n) : decodeHead [rowByte r.row.1 x] = .ok (f x) := by
  rw [decodeHead_of_matches (hr x).1 [], hf, (hr x).2]

/-- A channel message at the head: its row's free bits are the channel, and its operand bytes follow (R46, R49). -/
theorem decodeHead_chanMessage (r : HeadClass) (f : BitVec 4 → ChanOperands → Instr) (hr : RowByteFits 4 r.row)
    (hf : ∀ h rest, r.instr h rest = f (h.setWidth 4) (chanOperands rest)) (ch : BitVec 4) (o : ChanOperands) :
    decodeHead (chanMessage r.row.1 ch o) = .ok (f ch o) := by
  cases o with
  | complete b1 b2 => rw [chanMessage, decodeHead_of_matches (hr ch).1 [b1, b2], hf, (hr ch).2, chanOperands_pair]
  | incomplete => rw [chanMessage, decodeHead_of_matches (hr ch).1 [], hf, (hr ch).2, chanOperands_nil]

/-- A capture row whose only operand is its free bits. -/
theorem decodeCapture_rowByte {n : Nat} (r : CaptureClass) (f : BitVec n → Instr) (hr : RowByteFits n r.row)
    (hf : ∀ b, r.instr b = f (b.setWidth n)) (x : BitVec n) : decodeCapture [rowByte r.row.1 x] = .ok (f x) := by
  rw [decodeCapture_of_matches (hr x).1 [], hf, (hr x).2]

/-! ### Command frames (R51, R52) -/

theorem frameHeader_length {c : Config} (hm : c.mfrId.length = 3) : (frameHeader c).length = 5 := by
  simp [frameHeader, hm]

theorem cbFrame_length {c : Config} (hm : c.mfrId.length = 3) (cmd : Byte) (p : List Byte) :
    (cbFrame c cmd p).length = 7 + p.length := by
  simp [cbFrame, frameHeader_length hm]; omega

/-- A command frame is longer than the inquiry, so it is read as its command. -/
theorem decodeFrame_cbFrame {c : Config} (hm : c.mfrId.length = 3) (cmd : Byte) (p : List Byte) :
    decodeFrame c (cbFrame c cmd p) = decodeCommand cmd p := by
  have hinquiry : cbFrame c cmd p ≠ Config.inquiryFrame := by
    intro h
    have hlen := congrArg List.length h
    rw [cbFrame_length hm] at hlen
    simp [Config.inquiryFrame] at hlen
    omega
  have hsplit : cbFrame c cmd p = frameHeader c ++ (cmd :: (p ++ [0xF7])) := by simp [cbFrame]
  rw [decodeFrame, if_neg hinquiry, hsplit, List.take_left, List.drop_left, if_neg (fun h => h rfl)]
  simp

/-! ### Decoding what was encoded -/

theorem decode_encode_request {i : Instr} (hi : i.surface = .hostRequest) (hwf : i.WellFormed) (c : Config) :
    decode c (encode c i) = .ok i := by
  cases i with
  | illegal op => exact congrArg Decoded.ok (decodeRequest_illegal hwf)
  | frTry | enc7 _ | dec7 _ | negDetect | cbQuery _ | cbSave | regAssign _ _ | regUploadOne _ | regUploadAll | regClear _
  | rdSlot _ | rdSession | rdQueue => rfl
  | _ => cases hi

theorem decode_encode_frame {c : Config} (hc : c.WellFormed) {i : Instr} (hi : i.surface = .outboundFrame)
    (hwf : i.WellFormed) : decode c (encode c i) = .ok i := by
  obtain ⟨-, hm, -, -⟩ := hc
  cases i with
  | cmdUploadSample slot p =>
    have hpayload : Byte.isData slot ∧ UploadPayload p := hwf
    simp only [encode, decode, decodeFrame_cbFrame hm, decodeCommand, if_true, if_pos hpayload]
  | cmdQuerySlot slot =>
    have hslot : Byte.isData slot := hwf
    simp [encode, decode, decodeFrame_cbFrame hm, decodeCommand, hslot]
  | cmdSaveProject => simp [encode, decode, decodeFrame_cbFrame hm, decodeCommand]
  | inquiry => simp [encode, decode, decodeFrame]
  | _ => cases hi

theorem decode_encode_head {i : Instr} (hi : i.surface = .inboundHead) (c : Config) :
    decode c (encode c i) = .ok i := by
  cases i with
  | dropData x => exact decodeHead_rowByte .dropData .dropData rowByteFits_data (fun _ _ => rfl) x
  | noteOff ch o => exact decodeHead_chanMessage .noteOff .noteOff (rowByteFits_nibble (by decide)) (fun _ _ => rfl) ch o
  | noteOn ch o => exact decodeHead_chanMessage .noteOn .noteOn (rowByteFits_nibble (by decide)) (fun _ _ => rfl) ch o
  | dropA0 x => exact decodeHead_rowByte .dropA0 .dropA0 (rowByteFits_nibble (by decide)) (fun _ _ => rfl) x
  | controlChange ch o =>
    exact decodeHead_chanMessage .controlChange .controlChange (rowByteFits_nibble (by decide)) (fun _ _ => rfl) ch o
  | dropC0 x => exact decodeHead_rowByte .dropC0 .dropC0 (rowByteFits_nibble (by decide)) (fun _ _ => rfl) x
  | dropD0 x => exact decodeHead_rowByte .dropD0 .dropD0 (rowByteFits_nibble (by decide)) (fun _ _ => rfl) x
  | dropE0 x => exact decodeHead_rowByte .dropE0 .dropE0 (rowByteFits_nibble (by decide)) (fun _ _ => rfl) x
  | sysexStart => exact decodeHead_sysexStart []
  | dropF1 => exact decodeHead_of_matches (c := .dropF1) (h := 0xF1) (by decide) []
  | dropF2 x => exact decodeHead_rowByte .dropF2 .dropF2 rowByteFits_F2_FE (fun _ _ => rfl) x
  | dropF4 x => exact decodeHead_rowByte .dropF4 .dropF4 rowByteFits_F4_FC (fun _ _ => rfl) x
  | dropF8 x => exact decodeHead_rowByte .dropF8 .dropF8 rowByteFits_F8_F8 (fun _ _ => rfl) x
  | _ => cases hi

theorem decode_encode_capture {i : Instr} (hi : i.surface = .inboundCapture) (c : Config) :
    decode c (encode c i) = .ok i := by
  cases i with
  | capEnd => exact decodeCapture_of_matches (c := .capEnd) (b := 0xF7) (by decide) []
  | capData x => exact decodeCapture_rowByte .data .capData rowByteFits_data (fun _ => rfl) x
  | capStatus80 x => exact decodeCapture_rowByte .status80 .capStatus80 rowByteFits_80_C0 (fun _ => rfl) x
  | capStatusC0 x => exact decodeCapture_rowByte .statusC0 .capStatusC0 rowByteFits_C0_E0 (fun _ => rfl) x
  | capStatusE0 x => exact decodeCapture_rowByte .statusE0 .capStatusE0 (rowByteFits_nibble (by decide)) (fun _ => rfl) x
  | capStatusF0 x => exact decodeCapture_rowByte .statusF0 .capStatusF0 rowByteFits_F0_FC (fun _ => rfl) x
  | capStatusF4 x => exact decodeCapture_rowByte .statusF4 .capStatusF4 rowByteFits_F4_FE (fun _ => rfl) x
  | capStatusF6 => exact decodeCapture_of_matches (c := .statusF6) (b := 0xF6) (by decide) []
  | capStatusF8 x => exact decodeCapture_rowByte .statusF8 .capStatusF8 rowByteFits_F8_F8 (fun _ => rfl) x
  | _ => cases hi

/-- Settles O1, surface by surface. -/
theorem decodeOfEncodeIsTheInstruction : Obligations.DecodeOfEncodeIsTheInstruction := by
  intro c i hc hwf
  cases hi : i.surface with
  | hostRequest => exact decode_encode_request hi hwf c
  | inboundHead => exact decode_encode_head hi c
  | inboundCapture => exact decode_encode_capture hi c
  | outboundFrame => exact decode_encode_frame hc.1 hi hwf

/-- Settles O3: each word is one lookup in its table. -/
theorem wordsFromTheSpecDecode : Obligations.WordsFromTheSpecDecode := by
  unfold Obligations.WordsFromTheSpecDecode
  decide

end Sys2Proof
end

section
/-! The framer (40_framer.md): what `FrStep` does with each class of byte at the head of the FIFO (R63 to R73), for both of its
callers, and what it never writes (R75). -/

namespace Sys2Proof

/-! ### Channel messages and dropped bytes in the head table (R47) -/

/-- The high nibble of the status byte of a channel message. -/
def Machine.ChanKind.status : Machine.ChanKind → Byte
  | .noteOff       => 0x80
  | .noteOn        => 0x90
  | .controlChange => 0xB0

/-- The head row of a kind of channel message. -/
def Machine.ChanKind.instr : Machine.ChanKind → BitVec 4 → ChanOperands → Instr
  | .noteOff       => .noteOff
  | .noteOn        => .noteOn
  | .controlChange => .controlChange

/-- A channel message at the head: its class by the high nibble, its channel the low one (R47, R49). -/
theorem decodeHead_channel {k : Machine.ChanKind} {h : Byte} (hk : h &&& 0xF0 = k.status) (rest : List Byte) :
    decodeHead (h :: rest) = .ok (k.instr ((h &&& 0x0F).setWidth 4) (chanOperands rest)) := by
  obtain ⟨-, hon, hoff, hcc, hchannel⟩ := classifyHead_kind h
  rw [← hchannel]
  cases k with
  | noteOff => simp only [decodeHead, hoff.2 hk]; rfl
  | noteOn => simp only [decodeHead, hon.2 hk]; rfl
  | controlChange => simp only [decodeHead, hcc.2 hk]; rfl

theorem chanOperands_of_short {rest : List Byte} (h : rest.length < 2) : chanOperands rest = .incomplete := by
  match rest with
  | [] => rfl
  | [_] => rfl
  | _ :: _ :: _ => simp at h

/-- The bytes of a dropped class (R70). -/
abbrev DroppedByte (h : Byte) : Prop :=
  h ≤ 0x7F ∨ (0xA0 ≤ h ∧ h ≤ 0xAF) ∨ (0xC0 ≤ h ∧ h ≤ 0xEF) ∨ 0xF1 ≤ h

theorem classifyHead_of_dropped : ∀ h : Byte, DroppedByte h →
    classifyHead h ≠ some .sysexStart ∧ classifyHead h ≠ some .noteOn ∧ classifyHead h ≠ some .noteOff ∧
      classifyHead h ≠ some .controlChange := by
  decide

/-- A byte of a dropped class decodes to a row that drops. -/
theorem decodeHead_of_dropped {h : Byte} (hd : DroppedByte h) (rest : List Byte) :
    ∃ i, decodeHead (h :: rest) = .ok i ∧ i.Drops := by
  obtain ⟨c, hclass, hdecode⟩ := decodeHead_cons h rest
  obtain ⟨hstart, hon, hoff, hcc⟩ := classifyHead_of_dropped h hd
  simp only [hclass, ne_eq, Option.some.injEq] at hstart hon hoff hcc
  exact ⟨c.instr h rest, hdecode, headClass_drops c h rest hstart hon hoff hcc⟩

/-! ### Stored bytes in the capture table (R48) -/

/-- A capture row that stores a byte is encoded as that byte. -/
theorem encode_of_stored {i : Instr} {b : Byte} (hi : i.stored = some b) (c : Config) :
    i.surface = .inboundCapture ∧ encode c i = .capture [b] := by
  cases i with
  | capData | capStatus80 | capStatusC0 | capStatusE0 | capStatusF0 | capStatusF4 | capStatusF6 | capStatusF8 =>
    cases hi
    exact ⟨rfl, rfl⟩
  | _ => cases hi

theorem decodeCapture_of_stored {i : Instr} {b : Byte} (hi : i.stored = some b) (rest : List Byte) :
    decodeCapture (b :: rest) = .ok i := by
  obtain ⟨hsurface, hencode⟩ := encode_of_stored hi Config.default
  have hdecode := decode_encode_capture hsurface Config.default
  rw [hencode] at hdecode
  exact hdecode

namespace Machine

/-! ### The framer's returns (R62, R84, R87) -/

@[simp] theorem rxDrop_curOp (k : Nat) (s : State) : (s.rxDrop k).curOp = s.curOp := rfl

@[simp] theorem drainReturn_zero (m : Option MidiMessage) (s : State) :
    drainReturn m 0 s = { s with ngPhase := .scan } := rfl

@[simp] theorem drainReturn_none (n : Nat) (s : State) : drainReturn none (n + 1) s = s := rfl

@[simp] theorem drainReturn_sysEx (p : List Byte) (n : Nat) (s : State) :
    drainReturn (some (.sysEx p)) (n + 1) s = { s with ngCollected := s.ngCollected ++ [p] } := rfl

/-- The drain discards a channel message (R87). -/
@[simp] theorem drainReturn_channel (k : ChanKind) (c : BitVec 4) (b1 b2 : Byte) (n : Nat) (s : State) :
    drainReturn (some (chanMessageOf k c b1 b2)) (n + 1) s = s := by
  cases k <;> rfl

/-! ### The effects of FrStep by the bytes at the head -/

section
variable {s : State} {h : Byte} {rest : List Byte}

theorem frNothing_host (hop : s.curOp = some opFrTry) : frNothing s = s.finish .noMessage .none :=
  frReturn_host hop

theorem frNothing_drain (hop : s.curOp = some opNegDetect) : frNothing s = { s with ngPhase := .scan } :=
  (frReturn_drain hop).trans (drainReturn_zero none s)

theorem frDrop_host (hrx : s.rx = h :: rest) (hop : s.curOp = some opFrTry) :
    frDrop s = State.finish .noMessage .none { s with rx := rest } := by
  rw [frDrop, frReturn_host (by rw [rxDrop_curOp, hop]), State.rxDrop, hrx]
  rfl

theorem frDrop_drain (hrx : s.rx = h :: rest) (hop : s.curOp = some opNegDetect) : frDrop s = { s with rx := rest } := by
  rw [frDrop, frReturn_drain (by rw [rxDrop_curOp, hop]), drainReturn_none, State.rxDrop, hrx]
  rfl

theorem frChannel_host {b1 b2 : Byte} (hrx : s.rx = h :: b1 :: b2 :: rest) (hop : s.curOp = some opFrTry) (k : ChanKind)
    (c : BitVec 4) :
    frChannel k c (.complete b1 b2) s =
      State.finish .ok (.message (chanMessageOf k c b1 b2)) { s with rx := rest } := by
  rw [frChannel, frTake, frReturn_host (by rw [rxDrop_curOp, hop]), State.rxDrop, hrx]
  rfl

theorem frChannel_drain {b1 b2 : Byte} (hrx : s.rx = h :: b1 :: b2 :: rest) (hop : s.curOp = some opNegDetect)
    (k : ChanKind) (c : BitVec 4) : frChannel k c (.complete b1 b2) s = { s with rx := rest } := by
  rw [frChannel, frTake, frReturn_drain (by rw [rxDrop_curOp, hop]), drainReturn_channel, State.rxDrop, hrx]
  rfl

/-- The end of a frame removes the head byte alone (R73). -/
theorem frEnd_of_cons (hrx : s.rx = h :: rest) :
    frEnd s = frReturn (some (.sysEx s.frBuf)) (2 + s.frBuf.length) { s with rx := rest, frState := .idle, frBuf := [] } := by
  simp only [frEnd, State.rxDrop, hrx, List.drop_one, List.tail_cons]

theorem frEnd_host (hrx : s.rx = h :: rest) (hop : s.curOp = some opFrTry) :
    frEnd s =
      State.finish .ok (.message (.sysEx s.frBuf)) { s with rx := rest, frState := .idle, frBuf := [] } :=
  (frEnd_of_cons hrx).trans (frReturn_host hop)

theorem frEnd_drain (hrx : s.rx = h :: rest) (hop : s.curOp = some opNegDetect) :
    frEnd s = { s with rx := rest, frState := .idle, frBuf := [], ngCollected := s.ngCollected ++ [s.frBuf] } := by
  rw [frEnd_of_cons hrx, Nat.add_comm]
  exact (frReturn_drain (s := { s with rx := rest, frState := .idle, frBuf := [] }) hop).trans (drainReturn_sysEx s.frBuf _ _)

/-! ### FrStep as the decoded row (R61) -/

theorem frStep_of_nil (hf : s.frState = .idle) (hrx : s.rx = []) : frStep s = frNothing s := by
  simp only [frStep, hf, hrx]

theorem frStep_of_dropped (hf : s.frState = .idle) (hrx : s.rx = h :: rest) (hd : DroppedByte h) :
    frStep s = frDrop s := by
  obtain ⟨i, hdecode, hdrops⟩ := decodeHead_of_dropped hd rest
  have hstep : exec i s = .next (frStep s) := exec_decodeHead hf (by rw [hrx, hdecode])
  rw [exec_of_drops hdrops] at hstep
  exact (Host.Outcome.next.inj hstep).symm

end

theorem exec_channel (k : ChanKind) (c : BitVec 4) (o : ChanOperands) (s : State) :
    exec (k.instr c o) s = .next (frChannel k c o s) := by
  cases k <;> rfl

theorem exec_capEnd (s : State) : exec .capEnd s = .next (frEnd s) := by
  rfl

/-- A row decoded where the framer runs has the effect of `FrStep` (R61). -/
theorem exec_of_decoded {s : State} {i : Instr}
    (h : (s.frState = .idle ∧ decodeHead s.rx = .ok i) ∨ (s.frState = .capture ∧ decodeCapture s.rx = .ok i)) :
    exec i s = .next (frStep s) := by
  obtain ⟨hf, hd⟩ | ⟨hf, hd⟩ := h
  · exact exec_decodeHead hf hd
  · exact exec_decodeCapture hf hd

/-- Settles O6: both callers take one step of `FrStep`, which is the decoded row's meaning. -/
theorem frStepIsTheDecodedRow : Obligations.FrStepIsTheDecodedRow := by
  intro s i h
  have hstep := exec_of_decoded h
  exact ⟨by rw [exec_frTry, hstep], fun hdrain => by rw [exec_negDetect_of_drain hdrain, hstep]⟩

/-- Settles O25: an empty FIFO gives `FrStep` nothing to remove, which each caller ends with in its own way. -/
theorem frTryOnAnEmptyFifo : Obligations.FrTryOnAnEmptyFifo := by
  intro s hidle hrx
  have hstep := frStep_of_nil hidle hrx
  constructor
  · intro hop
    rw [exec_frTry, hstep, frNothing_host hop]
    rfl
  · intro hop hdrain
    rw [exec_negDetect_of_drain hdrain, hstep, frNothing_drain hop]

/-- Settles O26: the three classes are one row of `ChanKind.instr`, and its effect with complete operands removes three
bytes. -/
theorem channelMessagesAreDelivered : Obligations.ChannelMessagesAreDelivered := by
  intro s h b1 b2 rest hidle hrx i m hclass
  obtain ⟨k, hk, rfl, rfl⟩ : ∃ k : ChanKind, h &&& 0xF0 = k.status ∧
      i = k.instr ((h &&& 0x0F).setWidth 4) (.complete b1 b2) ∧
      m = chanMessageOf k ((h &&& 0x0F).setWidth 4) b1 b2 := by
    obtain hc | hc | hc := hclass
    · exact ⟨.noteOn, hc⟩
    · exact ⟨.noteOff, hc⟩
    · exact ⟨.controlChange, hc⟩
  have hdecode := decodeHead_channel hk (b1 :: b2 :: rest)
  rw [← hrx, chanOperands_pair] at hdecode
  have hstep := exec_decodeHead hidle hdecode
  refine ⟨hdecode, fun hop => ⟨by rw [exec_frTry, hstep], ?_⟩,
    fun hop hdrain => ⟨by rw [exec_negDetect_of_drain hdrain, hstep], ?_⟩⟩
  · rw [exec_channel, frChannel_host hrx hop]
    rfl
  · rw [exec_channel, frChannel_drain hrx hop]

/-- Settles O27: with fewer than two bytes after the status byte the operands are incomplete, and nothing is removed. -/
theorem incompleteChannelMessagesStay : Obligations.IncompleteChannelMessagesStay := by
  intro s h rest hidle hrx hshort i hclass
  obtain ⟨k, hk, rfl⟩ : ∃ k : ChanKind, h &&& 0xF0 = k.status ∧
      i = k.instr ((h &&& 0x0F).setWidth 4) .incomplete := by
    obtain hc | hc | hc := hclass
    · exact ⟨.noteOn, hc⟩
    · exact ⟨.noteOff, hc⟩
    · exact ⟨.controlChange, hc⟩
  have hoperands : chanOperands rest = .incomplete :=
    chanOperands_of_short (by rw [hrx, List.length_cons] at hshort; omega)
  have hdecode := decodeHead_channel hk rest
  rw [← hrx, hoperands] at hdecode
  have hstep := exec_decodeHead hidle hdecode
  refine ⟨hdecode, fun hop => ⟨by rw [exec_frTry, hstep], ?_⟩,
    fun hop hdrain => ⟨by rw [exec_negDetect_of_drain hdrain, hstep], ?_⟩⟩
  · rw [exec_channel, frChannel, frNothing_host hop]
    rfl
  · rw [exec_channel, frChannel, frNothing_drain hop]

/-- Settles O28: a dropped byte decodes to a row that drops, and every such row has the one effect `frDrop`. -/
theorem droppedBytesAreConsumedAlone : Obligations.DroppedBytesAreConsumedAlone := by
  intro s h rest hidle hrx hdropped
  have hdecode := decodeHead_of_dropped hdropped rest
  rw [← hrx] at hdecode
  have hstep := frStep_of_dropped hidle hrx hdropped
  refine ⟨hdecode, fun i hi => ⟨fun hop => ⟨?_, ?_⟩, fun hop hdrain => ⟨?_, ?_⟩⟩⟩
  · rw [exec_frTry, hstep, exec_of_drops hi]
  · rw [exec_of_drops hi, frDrop_host hrx hop]
    rfl
  · rw [exec_negDetect_of_drain hdrain, hstep, exec_of_drops hi]
  · rw [exec_of_drops hi, frDrop_drain hrx hop]

/-- Settles O31: a row that stores `b` is the row encoded as `b`, and its effect is `frStore`. -/
theorem captureRowsStoreTheirByte : Obligations.CaptureRowsStoreTheirByte := by
  intro s b rest i hrx hstored
  constructor
  · rw [hrx, decodeCapture_of_stored hstored]
  · rw [exec_of_stored hstored, frStore_of_cons hrx]

/-- Settles O32: `F7` decodes to the end of the frame, whose payload each caller takes in its own way. -/
theorem captureEndDeliversThePayload : Obligations.CaptureEndDeliversThePayload := by
  intro s rest hcapture hrx
  have hdecode : decodeCapture s.rx = .ok .capEnd := by
    rw [hrx]
    exact decodeCapture_of_matches (classifyCapture_matches classifyCapture_end) rest
  have hstep := exec_decodeCapture hcapture hdecode
  refine ⟨hdecode, fun hop => ⟨by rw [exec_frTry, hstep], ?_⟩,
    fun hop hdrain => ⟨by rw [exec_negDetect_of_drain hdrain, hstep], ?_⟩⟩
  · rw [exec_capEnd, frEnd_host hrx hop]
    rfl
  · rw [exec_capEnd, frEnd_drain hrx hop]

/-! ### What the framer leaves (R75) -/

/-- `t` differs from `s` only in what the framer writes: the FIFO loses bytes at its head, and the framer's own state, the
drain's, and the operation's end may change. -/
structure FramerFrame (s t : State) : Prop where
  cfg          : t.cfg = s.cfg
  slots        : t.slots = s.slots
  queue        : t.queue = s.queue
  connected    : t.connected = s.connected
  matched      : t.matched = s.matched
  tx           : t.tx = s.tx
  upActive     : t.upActive = s.upActive
  storageReply : t.storageReply = s.storageReply
  schedule     : t.schedule = s.schedule
  forever      : t.forever = s.forever
  sinkNext     : t.sinkNext = s.sinkNext
  storageNext  : t.storageNext = s.storageNext
  draws        : t.draws = s.draws
  rx           : t.rx <:+ s.rx

theorem framerFrame_refl (s : State) : FramerFrame s s :=
  ⟨rfl, rfl, rfl, rfl, rfl, rfl, rfl, rfl, rfl, rfl, rfl, rfl, rfl, List.suffix_refl _⟩

/-- Removing bytes and writing the framer's state keeps the frame. -/
theorem framerFrame_drop (k : Nat) (f : FrState) (buf : List Byte) (s : State) :
    FramerFrame s { s.rxDrop k with frState := f, frBuf := buf } :=
  ⟨rfl, rfl, rfl, rfl, rfl, rfl, rfl, rfl, rfl, rfl, rfl, rfl, rfl, List.drop_suffix k s.rx⟩

theorem FramerFrame.finish {s t : State} (h : FramerFrame s t) (c : ResultCode) (v : ResponseValue) :
    FramerFrame s (t.finish c v) :=
  ⟨h.cfg, h.slots, h.queue, h.connected, h.matched, h.tx, h.upActive, h.storageReply, h.schedule, h.forever, h.sinkNext,
    h.storageNext, h.draws, h.rx⟩

theorem FramerFrame.drain {s t : State} (h : FramerFrame s t) (p : NgPhase) (l : List (List Byte)) :
    FramerFrame s { t with ngPhase := p, ngCollected := l } :=
  ⟨h.cfg, h.slots, h.queue, h.connected, h.matched, h.tx, h.upActive, h.storageReply, h.schedule, h.forever, h.sinkNext,
    h.storageNext, h.draws, h.rx⟩

theorem FramerFrame.frReturn {s t : State} (h : FramerFrame s t) (m : Option MidiMessage) (n : Nat) :
    FramerFrame s (frReturn m n t) := by
  obtain ⟨-, c, v, -, e⟩ | ⟨-, -, e⟩ | ⟨-, -, l, e⟩ | ⟨-, -, e⟩ := frReturn_cases m n t <;> rw [e]
  · exact h.finish c v
  · exact h.drain .scan t.ngCollected
  · exact h.drain t.ngPhase (t.ngCollected ++ l)
  · exact h

theorem frDrop_frame (s : State) : FramerFrame s (frDrop s) :=
  (framerFrame_drop 1 s.frState s.frBuf s).frReturn none 1

theorem frStart_frame (s : State) : FramerFrame s (frStart s) :=
  framerFrame_drop 1 .capture [] s

theorem frStore_frame (b : Byte) (s : State) : FramerFrame s (frStore b s) :=
  framerFrame_drop 1 s.frState (s.frBuf ++ [b]) s

theorem frEnd_frame (s : State) : FramerFrame s (frEnd s) :=
  (framerFrame_drop 1 .idle [] s).frReturn _ _

theorem frTake_frame (m : MidiMessage) (s : State) : FramerFrame s (frTake m s) :=
  (framerFrame_drop 3 s.frState s.frBuf s).frReturn (some m) 3

theorem frNothing_frame (s : State) : FramerFrame s (frNothing s) :=
  (framerFrame_refl s).frReturn none 0

theorem frChannel_frame (k : ChanKind) (c : BitVec 4) (o : ChanOperands) (s : State) :
    FramerFrame s (frChannel k c o s) := by
  cases o with
  | complete b1 b2 => exact frTake_frame _ s
  | incomplete => exact frNothing_frame s

theorem frStep_frame (s : State) : FramerFrame s (frStep s) := by
  obtain ⟨-, -, h⟩ | ⟨-, -, h⟩ | ⟨-, -, m, h⟩ | ⟨-, -, h⟩ | ⟨-, -, h⟩ | ⟨-, -, h⟩ | ⟨-, -, h⟩ | ⟨-, b, r, -, -, h⟩ :=
    frStep_cases s <;> rw [h]
  · exact frNothing_frame s
  · exact frNothing_frame s
  · exact frTake_frame m s
  · exact frDrop_frame s
  · exact frStart_frame s
  · exact framerFrame_refl s
  · exact frEnd_frame s
  · exact frStore_frame b s

/-- Every instruction of the framer keeps the frame (R75). -/
theorem exec_ofFramer {i : Instr} (hi : i.OfFramer) (s : State) : ∃ t, exec i s = .next t ∧ FramerFrame s t := by
  cases i with
  | frTry => exact ⟨_, rfl, frStep_frame s⟩
  | dropData | dropA0 | dropC0 | dropD0 | dropE0 | dropF1 | dropF2 | dropF4 | dropF8 => exact ⟨_, rfl, frDrop_frame s⟩
  | noteOff | noteOn | controlChange => exact ⟨_, rfl, frChannel_frame _ _ _ s⟩
  | sysexStart => exact ⟨_, rfl, frStart_frame s⟩
  | capEnd => exact ⟨_, rfl, frEnd_frame s⟩
  | capData | capStatus80 | capStatusC0 | capStatusE0 | capStatusF0 | capStatusF4 | capStatusF6 | capStatusF8 =>
    exact ⟨_, rfl, frStore_frame _ s⟩
  | _ => obtain h | h | h := hi <;> cases h

/-- Settles O34: each instruction of the framer answers a next state in its frame. -/
theorem framerTouchesNoOtherComponent : Obligations.FramerTouchesNoOtherComponent := by
  intro i s hi
  obtain ⟨t, ht, h⟩ := exec_ofFramer hi s
  exact ⟨t, ht, h.cfg, h.slots, h.queue, h.connected, h.matched, h.tx, h.upActive, h.storageReply, h.schedule, h.forever,
    h.sinkNext, h.storageNext, h.draws, h.rx⟩

end Machine
end Sys2Proof
end

section
/-! The codec (41_codec.md): the closed forms of R76 and R78, what one direction keeps of the other (R81, R82), and the blocks
of R83, all from the groups of a bit stream. -/

namespace Sys2Proof.Machine

/-! ### Groups of a stream -/

theorem packGroup_drop (w : Nat) (t : List Bool) (j : Nat) : packGroup w (t.drop w) j = packGroup w t (j + 1) := by
  rw [packGroup, packGroup, List.drop_drop, Nat.mul_succ, Nat.add_comm w]

/-- The groups of a stream, one by one. -/
theorem groups_eq_map {w : Nat} (hw : 0 < w) (t : List Bool) :
    groups w t = (List.range (t.length / w)).map (packGroup w t) := by
  induction h : t.length using Nat.strong_induction_on generalizing t with
  | _ n ih =>
    subst h
    by_cases hl : w ≤ t.length
    · have hrest := ih (t.drop w).length (by rw [List.length_drop]; omega) (t.drop w) rfl
      have hcount : t.length / w = (t.drop w).length / w + 1 := by rw [List.length_drop, Nat.div_eq_sub_div hw hl]
      rw [groups_long hw hl, hrest, hcount, List.range_succ_eq_map, List.map_cons, List.map_map]
      congr 1
      exact List.map_congr_left fun j _ => packGroup_drop w t j
    · rw [groups_short (by omega), Nat.div_eq_of_lt (by omega)]
      rfl

/-- A group of `w` bits is below `2 ^ w`. -/
theorem groups_lt {w : Nat} (hw : 0 < w) {t : List Bool} {b : Byte} (hb : b ∈ groups w t) : b.toNat < 2 ^ w := by
  rw [groups_eq_map hw, List.mem_map] at hb
  obtain ⟨j, -, rfl⟩ := hb
  have hlen : ((t.drop (w * j)).take w).length ≤ w := by simp
  exact lt_of_lt_of_le (pack_lt _) (Nat.pow_le_pow_right (by decide) hlen)

/-- The groups of a first part of a stream are the first groups. -/
theorem groups_take {w : Nat} (hw : 0 < w) (t : List Bool) (k : Nat) :
    groups w (t.take k) = (groups w t).take (k / w) := by
  induction h : t.length using Nat.strong_induction_on generalizing t k with
  | _ n ih =>
    subst h
    by_cases hk : w ≤ k
    · by_cases hl : w ≤ t.length
      · have hlong : w ≤ (t.take k).length := by rw [List.length_take]; omega
        have hrest := ih (t.drop w).length (by rw [List.length_drop]; omega) (t.drop w) (k - w) rfl
        rw [groups_long hw hlong, groups_long hw hl, Nat.div_eq_sub_div hw hk, List.take_succ_cons, ← hrest,
          List.take_take, Nat.min_eq_left hk, List.drop_take]
      · rw [groups_short (t := t) (by omega), groups_short (by rw [List.length_take]; omega), List.take_nil]
    · rw [groups_short (by rw [List.length_take]; omega), Nat.div_eq_of_lt (by omega), List.take_zero]

/-- A first part of whole groups is cut alone (R83). -/
theorem groups_append {w : Nat} (hw : 0 < w) (t u : List Bool) (ht : t.length % w = 0) :
    groups w (t ++ u) = groups w t ++ groups w u := by
  induction h : t.length using Nat.strong_induction_on generalizing t with
  | _ n ih =>
    subst h
    by_cases hl : w ≤ t.length
    · have hrest := ih (t.drop w).length (by rw [List.length_drop]; omega) (t.drop w)
        (by rw [List.length_drop, ← Nat.mod_eq_sub_mod hl, ht]) rfl
      have hlong : w ≤ (t ++ u).length := by rw [List.length_append]; omega
      rw [groups_long hw hlong, groups_long hw hl, List.take_append_of_le_length hl, List.drop_append_of_le_length hl, hrest]
      rfl
    · have hnil : t = [] := List.length_eq_zero_iff.1 (by rwa [Nat.mod_eq_of_lt (by omega)] at ht)
      rw [hnil, groups_short (t := []) hw]
      rfl

/-! ### Groups and bytes -/

theorem byteBits_pack {w : Nat} (hw8 : w ≤ 8) {g : List Bool} (hg : g.length = w) : byteBits w (pack g) = g := by
  have hbits := natBits_pack (t := g) (by omega)
  rwa [hg] at hbits

theorem pack_byteBits {w : Nat} {b : Byte} (hb : b.toNat < 2 ^ w) : pack (byteBits w b) = b := by
  rw [byteBits_eq_natBits, pack_natBits, Nat.mod_eq_of_lt hb, BitVec.ofNat_toNat, BitVec.setWidth_eq]

/-- The bits of the groups of a stream are the stream without its incomplete group. -/
theorem flatMap_byteBits_groups {w : Nat} (hw : 0 < w) (hw8 : w ≤ 8) (t : List Bool) :
    (groups w t).flatMap (byteBits w) = t.take (w * (t.length / w)) := by
  induction h : t.length using Nat.strong_induction_on generalizing t with
  | _ n ih =>
    subst h
    by_cases hl : w ≤ t.length
    · have hrest := ih (t.drop w).length (by rw [List.length_drop]; omega) (t.drop w) rfl
      have hcount : w * (t.length / w) = w + w * ((t.drop w).length / w) := by
        rw [List.length_drop, Nat.div_eq_sub_div hw hl]; ring
      rw [groups_long hw hl, List.flatMap_cons, hrest, byteBits_pack hw8 (by rw [List.length_take]; omega), hcount,
        List.take_add]
    · rw [groups_short (by omega), Nat.div_eq_of_lt (by omega)]
      rfl

/-- The groups of the bits of bytes below `2 ^ w` are the bytes. -/
theorem groups_flatMap_byteBits {w : Nat} (hw : 0 < w) (d : List Byte) (hd : ∀ b ∈ d, b.toNat < 2 ^ w) :
    groups w (d.flatMap (byteBits w)) = d := by
  induction d with
  | nil => exact groups_short hw
  | cons b d ih =>
    rw [List.flatMap_cons, groups_append_group hw (byteBits_length w b), pack_byteBits (hd b (by simp)),
      ih fun c hc => hd c (by simp [hc])]

theorem bits7_length (e : List Byte) : (bits7 e).length = 7 * e.length :=
  flatMap_byteBits_length 7 e

theorem bits8_append (d1 d2 : List Byte) : bits8 (d1 ++ d2) = bits8 d1 ++ bits8 d2 := by
  simp [bits8]

theorem bits7_append (e1 e2 : List Byte) : bits7 (e1 ++ e2) = bits7 e1 ++ bits7 e2 := by
  simp [bits7]

theorem isData_iff_lt (b : Byte) : Byte.isData b ↔ b.toNat < 2 ^ 7 := by
  rw [Byte.isData, BitVec.le_def]
  exact Nat.lt_succ_iff.symm

/-- Every byte of `ENC7` is a data byte (R76). -/
theorem enc7_isData (d : List Byte) : ∀ b ∈ enc7 d, Byte.isData b := by
  intro b hb
  rw [enc7_eq_groups] at hb
  exact (isData_iff_lt b).2 (groups_lt (by decide) hb)

/-! ### The two directions after each other (R81, R82) -/

theorem bits7_enc7 (d : List Byte) : bits7 (enc7 d) = (bits8 d).take (7 * (8 * d.length / 7)) := by
  rw [enc7_eq_groups, bits7, flatMap_byteBits_groups (by decide) (by decide), bits8_length]

theorem bits8_dec7 (e : List Byte) : bits8 (dec7 e) = (bits7 e).take (8 * (7 * e.length / 8)) := by
  rw [dec7_eq_groups, bits8, flatMap_byteBits_groups (by decide) (by decide), bits7_length]

theorem groups_bits8 (d : List Byte) : groups 8 (bits8 d) = d :=
  groups_flatMap_byteBits (by decide) d fun b _ => b.isLt

theorem groups_bits7 {e : List Byte} (he : ∀ b ∈ e, Byte.isData b) : groups 7 (bits7 e) = e :=
  groups_flatMap_byteBits (by decide) e fun b hb => (isData_iff_lt b).1 (he b hb)

/-- Decoding cuts the bits that `ENC7` kept into bytes again. -/
theorem dec7_enc7 (d : List Byte) : dec7 (enc7 d) = d.take (7 * (8 * d.length / 7) / 8) := by
  rw [dec7_eq_groups, bits7_enc7, groups_take (by decide), groups_bits8]

/-- Encoding cuts the bits that `DEC7` kept into data bytes again. -/
theorem enc7_dec7 {e : List Byte} (he : ∀ b ∈ e, Byte.isData b) :
    enc7 (dec7 e) = e.take (8 * (7 * e.length / 8) / 7) := by
  rw [enc7_eq_groups, bits8_dec7, groups_take (by decide), groups_bits7 he]

/-- Settles O39: `ENC7` keeps `8n - n % 7` bits, which hold all `n` bytes or all but the last one. -/
theorem decodeAfterEncodeLosesTheTrailingGroup : Obligations.DecodeAfterEncodeLosesTheTrailingGroup := by
  intro d
  rw [dec7_enc7]
  split
  · exact List.take_of_length_le (by omega)
  · have hdropped : 8 * d.length % 7 ≠ 0 := by omega
    congr 1
    omega

/-- Settles O40: `DEC7` keeps `7m - 7m % 8` bits, which hold all `m` data bytes or all but the last one. -/
theorem encodeAfterDecodeLosesTheLastByte : Obligations.EncodeAfterDecodeLosesTheLastByte := by
  intro e he
  rw [enc7_dec7 he]
  split
  · exact List.take_of_length_le (by omega)
  · have hdropped : 7 * e.length % 8 ≠ 0 := by omega
    congr 1
    omega

/-! ### Blocks (R83) -/

theorem enc7_append (d1 d2 : List Byte) (h : d1.length % 7 = 0) : enc7 (d1 ++ d2) = enc7 d1 ++ enc7 d2 := by
  simp only [enc7_eq_groups, bits8_append]
  exact groups_append (by decide) _ _ (by rw [bits8_length]; omega)

theorem dec7_append (e1 e2 : List Byte) (h : e1.length % 8 = 0) : dec7 (e1 ++ e2) = dec7 e1 ++ dec7 e2 := by
  simp only [dec7_eq_groups, bits7_append]
  exact groups_append (by decide) _ _ (by rw [bits7_length]; omega)

/-- Settles O41: 224 bytes are 32 blocks of 7, whose encoding is the 256 bytes of the cap. -/
theorem codecBlockStructure : Obligations.CodecBlockStructure := by
  refine ⟨enc7_append, dec7_append, fun d hd => ?_⟩
  have hlen : (d.take 224).length = 224 := List.length_take_of_le hd
  have hsplit : enc7 d = enc7 (d.take 224) ++ enc7 (d.drop 224) := by
    rw [← enc7_append _ _ (by rw [hlen]), List.take_append_drop]
  rw [hsplit, List.take_left' (by rw [enc7_length, hlen])]

/-! ### The operations -/

theorem exec_enc7 (d : List Byte) (s : State) : exec (.enc7 d) s = .next (s.finish .ok (.bytes (enc7 d))) := by
  rfl

theorem exec_dec7_of_data {e : List Byte} (he : ∀ b ∈ e, Byte.isData b) (s : State) :
    exec (.dec7 e) s = .next (s.finish .ok (.bytes (dec7 e))) :=
  if_pos he

theorem exec_dec7_of_not_data {e : List Byte} (he : ¬ ∀ b ∈ e, Byte.isData b) (s : State) :
    exec (.dec7 e) s =
      .next ((s.drawBytes (7 * e.length / 8)).2.finish .ok (.bytes (s.drawBytes (7 * e.length / 8)).1)) :=
  if_neg he

/-- Settles O35: the loop cuts the bit stream into groups of 7, each below `2 ^ 7`. -/
theorem enc7IsTheSevenBitGroups : Obligations.Enc7IsTheSevenBitGroups := by
  intro d s
  refine ⟨?_, enc7_isData d, exec_enc7 d s⟩
  rw [enc7_eq_groups, groups_eq_map (by decide), bits8_length]
  rfl

/-- Settles O37: the loop cuts the 7-bit stream into groups of 8. -/
theorem dec7IsTheEightBitGroups : Obligations.Dec7IsTheEightBitGroups := by
  intro e s he
  refine ⟨?_, exec_dec7_of_data he s⟩
  rw [dec7_eq_groups, groups_eq_map (by decide), bits7_length]
  rfl

/-- Settles O38: the bytes are those of one draw, as many as `DEC7` has. -/
theorem dec7OfOtherBytesHasItsLength : Obligations.Dec7OfOtherBytesHasItsLength := by
  intro e s he
  refine ⟨(s.drawBytes (7 * e.length / 8)).1, by simp [State.drawBytes], ?_⟩
  rw [exec_dec7_of_not_data he]
  rfl

end Sys2Proof.Machine
end

section
/-! The command builder (43_command_builder.md): what a command does while disconnected (R92) and by the sink's answer (R93),
and the frames of its three commands (R94 to R96). -/

namespace Sys2Proof.Machine

/-! ### Writes -/

/-- The end of an operation that wrote one frame. -/
theorem finish_txPush_sinkTaken (r : TxRecord) (c : ResultCode) (v : ResponseValue) (s : State) :
    (s.sinkTaken.txPush r).finish c v =
      { s.sinkTaken with
        tx := s.tx ++ [r], resp := s.resp ++ [{ code := c, value := v }], cur := none, eng := .idle } := by
  simp only [State.txPush, State.finish, sinkTaken_tx, sinkTaken_resp]

theorem slotAt_txPush_sinkTaken (r : TxRecord) (i : Nat) (s : State) :
    (s.sinkTaken.txPush r).slotAt i = s.slotAt i :=
  slotAt_congr (by rw [txPush_slots, sinkTaken_slots]) i

/-- The status written after a frame was taken (R101). -/
theorem setStatus_txPush_sinkTaken (r : TxRecord) (i : Nat) (st : SlotStatus) (s : State) :
    (s.sinkTaken.txPush r).setStatus i st =
      { s.sinkTaken with slots := s.slots.set i { s.slotAt i with status := st }, tx := s.tx ++ [r] } := by
  rw [State.setStatus, slotAt_txPush_sinkTaken]
  simp only [State.setSlot, State.txPush, sinkTaken_tx, sinkTaken_slots]

theorem cbSend_ok {cmd : Byte} {p : List Byte} {s : State} (hc : s.connected = true) (hs : s.sinkAnswer = .ok) :
    cbSend cmd p s =
      (.ok, s.sinkTaken.txPush { frame := cbFrame s.cfg cmd p, answer := .ok, emitted := cbFrame s.cfg cmd p }) := by
  rw [cbSend_connected hc, txWrite_ok hs]
  rfl

theorem cbSend_ioError {cmd : Byte} {p : List Byte} {s : State} {k : Nat} (hc : s.connected = true)
    (hs : s.sinkAnswer = .ioError k) :
    cbSend cmd p s =
      (.ioError, s.sinkTaken.txPush
        { frame := cbFrame s.cfg cmd p, answer := .ioError, emitted := (cbFrame s.cfg cmd p).take k }) := by
  rw [cbSend_connected hc, txWrite_ioError hs]
  rfl

theorem cbSend_curOp (cmd : Byte) (p : List Byte) (s : State) : (cbSend cmd p s).2.curOp = s.curOp := by
  obtain ⟨-, h⟩ | ⟨-, h⟩ := cbSend_cases cmd p s <;> rw [h]
  rw [State.curOp, txPush_cur, sinkTaken_cur]
  rfl

/-! ### A command as a whole operation (R95, R96) -/

theorem cbCommand_declined {s : State} (hc : s.connected = false) (cmd : Byte) (p : List Byte) :
    cbCommand cmd p s = s.finish .declinedNotConnected .none := by
  rw [cbCommand, cbSend_declined hc]

theorem cbCommand_ok {s : State} (hc : s.connected = true) (hs : s.sinkAnswer = .ok) (cmd : Byte) (p : List Byte) :
    cbCommand cmd p s =
      { s.sinkTaken with
        tx := s.tx ++ [{ frame := cbFrame s.cfg cmd p, answer := .ok, emitted := cbFrame s.cfg cmd p }],
        resp := s.resp ++ [{ code := .ok, value := .none }], cur := none, eng := .idle } := by
  rw [cbCommand, cbSend_ok hc hs, finish_txPush_sinkTaken]

theorem cbCommand_ioError {s : State} {k : Nat} (hc : s.connected = true) (hs : s.sinkAnswer = .ioError k) (cmd : Byte)
    (p : List Byte) :
    cbCommand cmd p s =
      { s.sinkTaken with
        tx := s.tx ++ [{ frame := cbFrame s.cfg cmd p, answer := .ioError, emitted := (cbFrame s.cfg cmd p).take k }],
        resp := s.resp ++ [{ code := .ioError, value := .none }], cur := none, eng := .idle } := by
  rw [cbCommand, cbSend_ioError hc hs, finish_txPush_sinkTaken]

theorem exec_cbQuery_of_inRange {s : State} {i : Nat} (h : s.InRange i) :
    exec (.cbQuery i) s = .next (cbCommand 0x02 [slotByte i] s) :=
  congrArg Host.Outcome.next (if_pos h)

theorem exec_cbQuery_of_not_inRange {s : State} {i : Nat} (h : ¬ s.InRange i) :
    exec (.cbQuery i) s = .next (s.finish .declinedRange .none) :=
  congrArg Host.Outcome.next (if_neg h)

theorem exec_cbSave (s : State) : exec .cbSave s = .next (cbCommand 0x03 [] s) := by
  rfl

/-- Settles O46: the query is declined by its range, else it is a command with one payload byte. -/
theorem querySlotCommand : Obligations.QuerySlotCommand := by
  intro s i f hf
  have hframe : cbFrame s.cfg 0x02 [slotByte i] = f := by
    rw [hf, cbFrame_eq]
    simp [slotByte]
  refine ⟨fun ⟨_, hm, _, _⟩ => ?_, fun hi => ?_, fun hi hc => ?_, fun hi hc hs => ?_, fun k hi hc hs => ?_⟩
  · rw [← hframe, cbFrame_length hm]
    rfl
  · rw [exec_cbQuery_of_not_inRange hi]
    rfl
  · rw [exec_cbQuery_of_inRange hi, cbCommand_declined hc]
    rfl
  · rw [exec_cbQuery_of_inRange hi, cbCommand_ok hc hs, hframe]
  · rw [exec_cbQuery_of_inRange hi, cbCommand_ioError hc hs, hframe]

/-- Settles O47: the save is a command without payload. -/
theorem saveProjectCommand : Obligations.SaveProjectCommand := by
  intro s f hf
  have hframe : cbFrame s.cfg 0x03 [] = f := by
    rw [hf, cbFrame_eq]
    simp
  refine ⟨fun ⟨_, hm, _, _⟩ => ?_, fun hc => ?_, fun hc hs => ?_, fun k hc hs => ?_⟩
  · rw [← hframe, cbFrame_length hm]
    rfl
  · rw [exec_cbSave, cbCommand_declined hc]
    rfl
  · rw [exec_cbSave, cbCommand_ok hc hs, hframe]
  · rw [exec_cbSave, cbCommand_ioError hc hs, hframe]

/-! ### The rows of the outbound frames (R51 to R53) -/

theorem exec_cmdQuerySlot (b : Byte) (s : State) : exec (.cmdQuerySlot b) s = exec (.cbQuery b.toNat) s := by
  rfl

theorem exec_cmdSaveProject (s : State) : exec .cmdSaveProject s = exec .cbSave s := by
  rfl

theorem exec_inquiry (s : State) : exec .inquiry s = .next (ngSend s) := by
  rfl

theorem slotByte_toNat (b : Byte) : slotByte b.toNat = b := by
  simp [slotByte]

/-- Settles O48: each row runs its operation, and the frame encoded for the row is the one that operation writes. -/
theorem frameRowsAreTheirOperations : Obligations.FrameRowsAreTheirOperations := by
  intro s b
  refine ⟨exec_cmdQuerySlot b s, exec_cmdSaveProject s, fun hp => ?_, fun hs => ⟨fun hb hc f hf => ?_, fun hc f hf => ?_,
    fun f hf => ?_⟩⟩
  · rw [exec_inquiry, exec_negDetect_of_idle hp]
  · cases hf
    rw [exec_cmdQuerySlot, exec_cbQuery_of_inRange hb, cbCommand_ok hc hs, slotByte_toNat]
  · cases hf
    rw [exec_cmdSaveProject, exec_cbSave, cbCommand_ok hc hs]
  · cases hf
    rw [exec_inquiry, ngSend_ok hs]

/-! ### The upload frame (R94, R101) -/

theorem exec_cmdUploadSample (b : Byte) (p : List Byte) (s : State) :
    exec (.cmdUploadSample b p) s =
      .next (uploadReturn b.toNat (cbSend 0x01 (b :: p) s).1 (cbSend 0x01 (b :: p) s).2) := by
  rfl

theorem uploadReturn_one {s : State} (h : s.curOp = some opRegUploadOne) (i : Nat) (r : ResultCode) :
    uploadReturn i r s = (uploadDone i r s).finish r .none :=
  if_pos h

theorem uploadReturn_all {s : State} (h : s.curOp = some opRegUploadAll) (i : Nat) (r : ResultCode) :
    uploadReturn i r s = uploadDone i r s := by
  have hone : s.curOp ≠ some opRegUploadOne := by rw [h]; decide
  rw [uploadReturn, if_neg hone, if_pos h]

theorem uploadDone_ok (i : Nat) (s : State) : uploadDone i .ok s = s.setStatus i .uploaded :=
  if_pos rfl

theorem uploadDone_declined (i : Nat) (s : State) : uploadDone i .declinedNotConnected s = s :=
  if_neg nofun

theorem uploadDone_ioError (i : Nat) (s : State) : uploadDone i .ioError s = s :=
  if_neg nofun

/-- The frame sent for a `REG_UPLOAD_ONE` ends it with the result (R102). -/
theorem exec_cmdUploadSample_one {s : State} (h : s.curOp = some opRegUploadOne) (b : Byte) (p : List Byte) :
    exec (.cmdUploadSample b p) s =
      .next ((uploadDone b.toNat (cbSend 0x01 (b :: p) s).1 (cbSend 0x01 (b :: p) s).2).finish
        (cbSend 0x01 (b :: p) s).1 .none) := by
  rw [exec_cmdUploadSample, uploadReturn_one (by rw [cbSend_curOp, h])]

/-- The frame sent in a pass writes the status and no more (R103). -/
theorem exec_cmdUploadSample_all {s : State} (h : s.curOp = some opRegUploadAll) (b : Byte) (p : List Byte) :
    exec (.cmdUploadSample b p) s =
      .next (uploadDone b.toNat (cbSend 0x01 (b :: p) s).1 (cbSend 0x01 (b :: p) s).2) := by
  rw [exec_cmdUploadSample, uploadReturn_all (by rw [cbSend_curOp, h])]

/-- The state after an upload frame that the sink took. -/
theorem finish_setStatus_txPush (r : TxRecord) (i : Nat) (st : SlotStatus) (c : ResultCode) (s : State) :
    ((s.sinkTaken.txPush r).setStatus i st).finish c .none =
      { s.sinkTaken with
        slots := s.slots.set i { s.slotAt i with status := st }, tx := s.tx ++ [r],
        resp := s.resp ++ [{ code := c, value := .none }], cur := none, eng := .idle } := by
  rw [setStatus_txPush_sinkTaken]
  simp only [State.finish, sinkTaken_resp]

theorem txPush_sinkTaken (r : TxRecord) (s : State) :
    s.sinkTaken.txPush r = { s.sinkTaken with tx := s.tx ++ [r] } := by
  rw [State.txPush, sinkTaken_tx]

/-- Settles O49: the frame is one CB command, whose result `uploadReturn` hands to the operation in progress. -/
theorem uploadFrameIsSent : Obligations.UploadFrameIsSent := by
  intro s b p f hf
  have hframe : cbFrame s.cfg 0x01 (b :: p) = f := by
    rw [hf, cbFrame_eq]
    simp
  refine ⟨fun hc => ⟨fun hop => ?_, fun hop => ?_⟩, fun hc hs => ⟨fun hop => ?_, fun hop => ?_⟩,
    fun k hc hs => ⟨fun hop => ?_, fun hop => ?_⟩⟩
  · rw [exec_cmdUploadSample_one hop, cbSend_declined hc, uploadDone_declined]
    rfl
  · rw [exec_cmdUploadSample_all hop, cbSend_declined hc, uploadDone_declined]
  · rw [exec_cmdUploadSample_one hop, cbSend_ok hc hs, uploadDone_ok, finish_setStatus_txPush, hframe]
  · rw [exec_cmdUploadSample_all hop, cbSend_ok hc hs, uploadDone_ok, setStatus_txPush_sinkTaken, hframe]
  · rw [exec_cmdUploadSample_one hop, cbSend_ioError hc hs, uploadDone_ioError, finish_txPush_sinkTaken, hframe]
  · rw [exec_cmdUploadSample_all hop, cbSend_ioError hc hs, uploadDone_ioError, txPush_sinkTaken, hframe]

end Sys2Proof.Machine
end

section
/-! The registry (44_registry_queue.md): the upload dispatch (R101) and its two callers (R102, R103), `REG_ASSIGN` (R100), and
the reads (R105 to R107). -/

namespace Sys2Proof.Machine

/-! ### The dispatch (R101) -/

/-- What a slot with data to send holds. -/
theorem usable_of_data {r : Slot} {b : Byte} {d : List Byte} (hst : r.status ≠ .empty) (hd : r.data = some (b :: d)) :
    r.usable = some (b :: d) :=
  usable_eq_some.2 ⟨hst, hd, List.cons_ne_nil b d⟩

theorem dispatch_unusable {s : State} {i : Nat} (h : (s.slotAt i).usable = none) :
    dispatch i s = (.declinedEmpty, s) := by
  simp only [dispatch, h]

theorem dispatch_usable {s : State} {i : Nat} {d : List Byte} (h : (s.slotAt i).usable = some d) :
    dispatch i s = ((cbUpload i d s).1, uploadDone i (cbUpload i d s).1 (cbUpload i d s).2) := by
  simp only [dispatch, h]

theorem dispatch_declined {s : State} {i : Nat} {d : List Byte} (h : (s.slotAt i).usable = some d)
    (hc : s.connected = false) : dispatch i s = (.declinedNotConnected, s) := by
  rw [dispatch_usable h, cbUpload, cbSend_declined hc, uploadDone_declined]

/-- The upload frame of slot `i` with data `d` (R94). -/
def uploadFrame (c : Config) (i : Nat) (d : List Byte) : List Byte := cbFrame c 0x01 (uploadPayload i d)

theorem uploadFrame_eq (c : Config) (i : Nat) (d : List Byte) :
    uploadFrame c i d =
      [0xF0] ++ c.mfrId ++ [c.deviceId, 0x01, BitVec.ofNat 8 i] ++ (enc7 d).take 256 ++ [0xF7] := by
  rw [uploadFrame, cbFrame_eq]
  simp [uploadPayload, slotByte, Config.uploadCap]

theorem dispatch_ok {s : State} {i : Nat} {d : List Byte} (h : (s.slotAt i).usable = some d)
    (hc : s.connected = true) (hs : s.sinkAnswer = .ok) :
    dispatch i s = (.ok, (s.sinkTaken.txPush
      { frame := uploadFrame s.cfg i d, answer := .ok, emitted := uploadFrame s.cfg i d }).setStatus i .uploaded) := by
  rw [dispatch_usable h, cbUpload, cbSend_ok hc hs, uploadDone_ok]
  rfl

theorem dispatch_ioError {s : State} {i k : Nat} {d : List Byte} (h : (s.slotAt i).usable = some d)
    (hc : s.connected = true) (hs : s.sinkAnswer = .ioError k) :
    dispatch i s = (.ioError, s.sinkTaken.txPush
      { frame := uploadFrame s.cfg i d, answer := .ioError, emitted := (uploadFrame s.cfg i d).take k }) := by
  rw [dispatch_usable h, cbUpload, cbSend_ioError hc hs, uploadDone_ioError]
  rfl

/-! ### One upload (R102) -/

theorem exec_regUploadOne_of_inRange {s : State} {i : Nat} (h : s.InRange i) :
    exec (.regUploadOne i) s = .next ((dispatch i s).2.finish (dispatch i s).1 .none) :=
  congrArg Host.Outcome.next (if_pos h)

theorem exec_regUploadOne_of_not_inRange {s : State} {i : Nat} (h : ¬ s.InRange i) :
    exec (.regUploadOne i) s = .next (s.finish .declinedRange .none) :=
  congrArg Host.Outcome.next (if_neg h)

/-- Settles O53: the dispatch looks at the data, then at the connection, then at the sink's answer. -/
theorem uploadOneDispatchesTheSlot : Obligations.UploadOneDispatchesTheSlot := by
  intro s i hi
  refine ⟨fun hempty => ?_, fun b d hst hd => ⟨fun hc => ?_, fun f hf => ⟨fun hc hs => ?_, fun k hc hs => ?_⟩⟩⟩
  · rw [exec_regUploadOne_of_inRange hi, dispatch_unusable (usable_eq_none.2 hempty)]
    rfl
  · rw [exec_regUploadOne_of_inRange hi, dispatch_declined (usable_of_data hst hd) hc]
    rfl
  · rw [exec_regUploadOne_of_inRange hi, dispatch_ok (usable_of_data hst hd) hc hs, finish_setStatus_txPush, hf,
      uploadFrame_eq]
  · rw [exec_regUploadOne_of_inRange hi, dispatch_ioError (usable_of_data hst hd) hc hs, finish_txPush_sinkTaken, hf,
      uploadFrame_eq]

/-- Settles O45: the three commands meet the same gate, each behind its own checks. -/
theorem commandsAreDeclinedWhileDisconnected : Obligations.CommandsAreDeclinedWhileDisconnected := by
  rintro s t i j b d hc hi rfl
  refine ⟨?_, ?_, fun hj hst hd => ?_⟩
  · rw [exec_cbQuery_of_inRange hi, cbCommand_declined hc]
    rfl
  · rw [exec_cbSave, cbCommand_declined hc]
    rfl
  · rw [exec_regUploadOne_of_inRange hj, dispatch_declined (usable_of_data hst hd) hc]
    rfl

/-- An upload of a connected session writes one record of the slot's frame, whatever the sink answers. -/
theorem exec_regUploadOne_tx {s t : State} {i : Nat} {d : List Byte} (hi : s.InRange i)
    (h : (s.slotAt i).usable = some d) (hc : s.connected = true) (ht : exec (.regUploadOne i) s = .next t) :
    ∃ r, t.tx = s.tx ++ [r] ∧ r.frame = uploadFrame s.cfg i d := by
  rw [exec_regUploadOne_of_inRange hi] at ht
  cases ht
  cases hs : s.sinkAnswer with
  | ok => exact ⟨_, by rw [dispatch_ok h hc hs, finish_setStatus_txPush], rfl⟩
  | ioError k => exact ⟨_, by rw [dispatch_ioError h hc hs, finish_txPush_sinkTaken], rfl⟩

theorem uploadFrame_length {c : Config} (hm : c.mfrId.length = 3) (i : Nat) (d : List Byte) :
    (uploadFrame c i d).length = 8 + min 256 (8 * d.length / 7) := by
  rw [uploadFrame, cbFrame_length hm, uploadPayload, List.length_cons, List.length_take, enc7_length, Config.uploadCap]
  omega

/-- Settles O50: the frame of an upload is a function of the configuration, the slot's index and its data. -/
theorem sameDataGivesTheSameFrame : Obligations.SameDataGivesTheSameFrame := by
  intro s s' t t' i b d hwf hcfg hi hc hc' hd hd' hst hst' ht ht'
  obtain ⟨r, htx, hr⟩ := exec_regUploadOne_tx hi (usable_of_data hst hd) hc ht
  obtain ⟨r', htx', hr'⟩ := exec_regUploadOne_tx (show i < s'.cfg.numSlots from hcfg ▸ hi) (usable_of_data hst' hd') hc' ht'
  exact ⟨r, r', htx, htx', by rw [hr, hr', hcfg], by rw [hr, uploadFrame_length hwf.2.1]; rfl⟩

/-- Settles O54: the dispatch of usable data is the upload's CB command, and the slot byte gives the index back. -/
theorem uploadOneIsItsFrame : Obligations.UploadOneIsItsFrame := by
  intro s i b d hi hslots hop hst hd
  have hindex : (slotByte i).toNat = i := by
    rw [slotByte, BitVec.toNat_ofNat]
    omega
  have hframe := exec_cmdUploadSample_one hop (slotByte i) ((enc7 (b :: d)).take 256)
  rw [hindex] at hframe
  rw [exec_regUploadOne_of_inRange hi, dispatch_usable (usable_of_data hst hd)]
  exact hframe.symm

/-! ### The pass (R103) -/

theorem exec_regUploadAll_begin {s : State} (h : s.upActive = false) :
    exec .regUploadAll s = .next { s with upActive := true } := by
  simp only [exec, execRegUploadAll, regUploadAll, h, if_neg Bool.false_ne_true]

theorem exec_regUploadAll_end {s : State} (h : s.upActive = true) (hq : s.queue = []) :
    exec .regUploadAll s = .next (State.finish .ok .none { s with upActive := false }) := by
  simp only [exec, execRegUploadAll, regUploadAll, h, hq, if_true]

theorem exec_regUploadAll_entry {s : State} {i : Nat} {rest : List Nat} (h : s.upActive = true)
    (hq : s.queue = i :: rest) : exec .regUploadAll s = .next (dispatch i { s with queue := rest }).2 := by
  simp only [exec, execRegUploadAll, regUploadAll, h, hq, if_true]

/-- The sink's choice does not look at the queue. -/
theorem sinkTaken_withQueue (q : List Nat) (s : State) :
    { s with queue := q }.sinkTaken = { s.sinkTaken with queue := q } := by
  unfold State.sinkTaken
  cases s.sinkNext <;> rfl

/-- Settles O55: the three kinds of step of a pass, the entry split as the dispatch is. -/
theorem uploadAllStepsThroughTheQueue : Obligations.UploadAllStepsThroughTheQueue := by
  intro s
  refine ⟨exec_regUploadAll_begin, fun h hq => exec_regUploadAll_end h hq, fun i rest h hq => ⟨fun hno => ?_,
    fun b d f hst hd hc hf => ⟨fun hs => ?_, fun k hs => ?_⟩⟩⟩
  · rw [exec_regUploadAll_entry h hq]
    cases hu : (s.slotAt i).usable with
    | none => rw [dispatch_unusable (s := { s with queue := rest }) hu]
    | some d =>
      obtain ⟨hst, hd, hne⟩ := usable_eq_some.1 hu
      have hc : s.connected = false := by simpa [hst, hd, hne] using hno
      rw [dispatch_declined (s := { s with queue := rest }) hu hc]
  · rw [exec_regUploadAll_entry h hq, dispatch_ok (s := { s with queue := rest }) (usable_of_data hst hd) hc hs,
      setStatus_txPush_sinkTaken, sinkTaken_withQueue, hf, uploadFrame_eq]
    rfl
  · rw [exec_regUploadAll_entry h hq, dispatch_ioError (s := { s with queue := rest }) (usable_of_data hst hd) hc hs,
      txPush_sinkTaken, sinkTaken_withQueue, hf, uploadFrame_eq]

/-! ### REG_ASSIGN (R100) -/

theorem exec_regAssign_of_not_inRange {s : State} {i : Nat} (h : ¬ s.InRange i) (path : Path) :
    exec (.regAssign i path) s = .next (s.finish .declinedRange .none) :=
  congrArg Host.Outcome.next (if_neg h)

theorem exec_regAssign_read {s : State} {i : Nat} (h : s.InRange i) (hr : s.storageReply = none) (path : Path) :
    exec (.regAssign i path) s = .next { s.storageTaken with storageReply := some (s.storageAnswer path) } := by
  simp only [exec, execRegAssign, regAssign, if_pos h, hr, State.storageRead]

theorem exec_regAssign_reply {s : State} {i : Nat} {a : StorageAnswer} (h : s.InRange i) (hr : s.storageReply = some a)
    (path : Path) : exec (.regAssign i path) s = .next (assignFinish i path a { s with storageReply := none }) := by
  simp only [exec, execRegAssign, regAssign, if_pos h, hr]

theorem enqueue_eq (i : Nat) (s : State) :
    s.enqueue i = { s with queue := if i ∈ s.queue then s.queue else s.queue ++ [i] } := by
  unfold State.enqueue
  split <;> rfl

/-- Settles O52: the step before the storage's answer, and the one after it by that answer. -/
theorem assignReadsThenStores : Obligations.AssignReadsThenStores := by
  intro s i path hi
  refine ⟨fun hr => exec_regAssign_read hi hr path, fun hr => ?_, fun d hr => ?_⟩
  · rw [exec_regAssign_reply hi hr]
    rfl
  · rw [exec_regAssign_reply hi hr, assignFinish, enqueue_eq]
    rfl

/-! ### The reads (R105 to R107) -/

theorem exec_rdSlot_of_inRange {s : State} {i : Nat} (h : s.InRange i) :
    exec (.rdSlot i) s = .next (s.finish .ok (.slot (s.slotAt i))) :=
  congrArg Host.Outcome.next (if_pos h)

theorem exec_rdSlot_of_not_inRange {s : State} {i : Nat} (h : ¬ s.InRange i) :
    exec (.rdSlot i) s = .next (s.finish .declinedRange .none) :=
  congrArg Host.Outcome.next (if_neg h)

theorem slotAt_of_getElem? {s : State} {i : Nat} {r : Slot} (h : s.slots[i]? = some r) : s.slotAt i = r := by
  rw [State.slotAt, List.getD_eq_getElem?_getD, h]
  rfl

theorem exec_rdSession (s : State) :
    exec .rdSession s = .next (s.finish .ok (.session s.connected s.matched)) := by
  rfl

theorem exec_rdQueue (s : State) : exec .rdQueue s = .next (s.finish .ok (.queue s.queue)) := by
  rfl

/-- Settles O58: each read is a `finish` with its element. -/
theorem readsAnswerTheirElement : Obligations.ReadsAnswerTheirElement := by
  intro s i r
  refine ⟨fun hi hr => ?_, fun hi => exec_rdSlot_of_not_inRange hi, exec_rdSession s, exec_rdQueue s⟩
  rw [exec_rdSlot_of_inRange hi, slotAt_of_getElem? hr]
  rfl

/-- Settles O51: each of the five operations tests the range first. -/
theorem outOfRangeSlotsAreDeclined : Obligations.OutOfRangeSlotsAreDeclined := by
  rintro s t n path hn rfl
  have hrange : ¬ s.InRange n := not_lt.2 hn
  refine ⟨exec_regAssign_of_not_inRange hrange path, exec_regUploadOne_of_not_inRange hrange, ?_,
    exec_cbQuery_of_not_inRange hrange, exec_rdSlot_of_not_inRange hrange⟩
  rw [exec_regClear, regClear_of_not_inRange hrange]
  rfl

/-! ### The result codes (R111) -/

/-- The code of a numeric value, read from the table of R111. -/
def codeOfValue (b : Byte) : Option ResultCode :=
  [ResultCode.ok, .noMessage, .notFound, .declinedNotConnected, .declinedRange, .declinedEmpty, .ioError, .storageError,
    .illegalOp].find? (fun c => c.value = b)

theorem codeOfValue_value (c : ResultCode) : codeOfValue c.value = some c := by
  cases c <;> rfl

/-- Settles O59: the values are read back by `codeOfValue`, so they differ. -/
theorem resultCodeValues : Obligations.ResultCodeValues := by
  refine ⟨fun c c' h => ?_, rfl, rfl, rfl, rfl, rfl, rfl, rfl, rfl, rfl⟩
  rw [← Option.some_inj, ← codeOfValue_value c, h, codeOfValue_value]

end Sys2Proof.Machine
end

section
/-! The invariant of the engine (10_state.md): it holds at reset, each shared operation keeps it, and so does every step. -/

namespace Sys2Proof.Machine

/-! ### Reset (R123) -/

/-- Settles O13: reset writes every element, and the slots are `NUM_SLOTS` cleared ones. -/
theorem resetSetsEveryElement : Obligations.ResetSetsEveryElement := by
  intro c rx
  exact ⟨rfl, rfl, rfl, rfl, rfl, rfl, rfl, rfl, rfl, List.length_replicate, fun i hi => List.getElem?_replicate_of_lt hi,
    rfl, rfl, rfl, rfl, rfl⟩

theorem slotOk_cleared : SlotOk Slot.cleared :=
  ⟨fun _ => ⟨rfl, rfl⟩, fun h => absurd rfl h⟩

theorem inv_resetWith {c : Config} (hc : c.Legal) (rx : List Byte) : (State.resetWith c rx).Inv where
  legal := hc
  idleIff := ⟨fun _ => rfl, fun _ => rfl⟩
  idleBuf _ := rfl
  captureOp := nofun
  phaseOp h := absurd rfl h
  idleCollected _ := rfl
  passOp := nofun
  replyOp h := absurd rfl h
  slotCount := List.length_replicate
  slotsOk r hr := by
    rw [List.eq_of_mem_replicate hr]
    exact slotOk_cleared
  queueNodup := List.nodup_nil
  queueRange := nofun
  txOk := nofun
  session := nofun

/-- Settles O14: nothing is in progress, queued, sent or connected at reset, and every slot is cleared. -/
theorem invariantHoldsAtReset : Obligations.InvariantHoldsAtReset :=
  ⟨fun _ rx hc => inv_resetWith hc rx, inv_resetWith (by decide) []⟩

/-! ### What the invariant says of a state's phase -/

theorem curOp_of_cur {s : State} {q : Request} (hq : s.cur = some q) : s.curOp = some q.op := by
  rw [State.curOp, hq]
  rfl

section
variable {s : State} (h : s.Inv)
include h

/-- Outside `NEG_DETECT` the phase is `NG_IDLE`. -/
theorem State.Inv.ngPhase_idle (hop : s.curOp ≠ some opNegDetect) : s.ngPhase = .idle := by
  by_contra hp
  exact hop (h.phaseOp hp)

/-- Outside `REG_UPLOAD_ALL` no pass is marked. -/
theorem State.Inv.upActive_false (hop : s.curOp ≠ some opRegUploadAll) : s.upActive = false := by
  by_contra hu
  exact hop (h.passOp (by simpa using hu))

/-- Outside `REG_ASSIGN` no answer of the storage is held. -/
theorem State.Inv.storageReply_none (hop : s.curOp ≠ some opRegAssign) : s.storageReply = none := by
  by_contra hr
  obtain ⟨q, hq, hqop, -⟩ := h.replyOp hr
  exact hop (by rw [curOp_of_cur hq, hqop])

/-- A capture runs in the drain or in `FR_TRY`, so in every other phase the framer is idle. -/
theorem State.Inv.frState_idle (hop : s.curOp ≠ some opFrTry) (hp : s.ngPhase ≠ .drain) : s.frState = .idle := by
  cases hf : s.frState with
  | idle => rfl
  | capture =>
    obtain hc | ⟨-, hc⟩ := h.captureOp hf
    · exact absurd hc hop
    · exact absurd hc hp

theorem State.Inv.cur_none (he : s.eng = .idle) : s.curOp = none := by
  rw [State.curOp, h.idleIff.1 he]
  rfl

theorem State.Inv.slotAt_ok (i : Nat) : SlotOk (s.slotAt i) := by
  rw [State.slotAt, List.getD_eq_getElem?_getD]
  cases hi : s.slots[i]? with
  | none => exact slotOk_cleared
  | some r => exact h.slotsOk r (List.mem_of_getElem? hi)

/-! ### The shared operations keep the invariant -/

/-- The invariant does not speak of the FIFO's bytes, the responses, or the environment's choices. -/
theorem State.Inv.outside (rx : List Byte) (resp : List Response) (sch : List Turn) (f : Forever)
    (sn : List SinkAnswer) (st : List StorageAnswer) (d : Nat) :
    { s with rx := rx, resp := resp, schedule := sch, forever := f, sinkNext := sn, storageNext := st, draws := d }.Inv :=
  ⟨h.legal, h.idleIff, h.idleBuf, h.captureOp, h.phaseOp, h.idleCollected, h.passOp, h.replyOp, h.slotCount, h.slotsOk,
    h.queueNodup, h.queueRange, h.txOk, h.session⟩

theorem State.Inv.sinkTaken : s.sinkTaken.Inv := by
  unfold State.sinkTaken
  split
  · exact h.outside _ _ _ _ _ _ _
  · exact h.outside _ _ _ _ _ _ _

theorem State.Inv.storageTaken : s.storageTaken.Inv := by
  unfold State.storageTaken
  split
  · exact h.outside _ _ _ _ _ _ _
  · exact h.outside _ _ _ _ _ _ _

theorem State.Inv.txPush {r : TxRecord} (hr : TxOk r) : (s.txPush r).Inv :=
  { h with
    txOk := fun t ht => by
      obtain ht | ht := List.mem_append.1 ht
      · exact h.txOk t ht
      · rw [List.mem_singleton.1 ht]
        exact hr }

theorem State.Inv.setSlot {v : Slot} (hv : SlotOk v) (i : Nat) : (s.setSlot i v).Inv :=
  { h with
    slotCount := by rw [setSlot_slots, List.length_set, h.slotCount, setSlot_cfg]
    slotsOk := fun r hr => by
      obtain hr | hr := List.mem_or_eq_of_mem_set hr
      · exact h.slotsOk r hr
      · rw [hr]
        exact hv }

theorem State.Inv.withQueue {q : List Nat} (hn : q.Nodup) (hr : ∀ i ∈ q, s.InRange i) : { s with queue := q }.Inv :=
  { h with queueNodup := hn, queueRange := hr }

theorem State.Inv.enqueue {i : Nat} (hi : s.InRange i) : (s.enqueue i).Inv := by
  unfold State.enqueue
  split
  · exact h
  · rename_i hmem
    refine h.withQueue (by simpa using h.queueNodup.concat hmem) fun j hj => ?_
    obtain hj | hj := List.mem_append.1 hj
    · exact h.queueRange j hj
    · rw [List.mem_singleton.1 hj]
      exact hi

/-- An operation ends where the framer, the negotiator and the registry are at rest. -/
theorem State.Inv.finish (hf : s.frState = .idle) (hp : s.ngPhase = .idle) (hu : s.upActive = false)
    (hr : s.storageReply = none) (c : ResultCode) (v : ResponseValue) : (s.finish c v).Inv :=
  { h with
    idleIff := ⟨fun _ => rfl, fun _ => rfl⟩
    captureOp := fun hc => by rw [finish_frState, hf] at hc; cases hc
    phaseOp := fun hc => absurd hp hc
    passOp := fun hc => by rw [finish_upActive, hu] at hc; cases hc
    replyOp := fun hc => absurd hr hc }

/-- An operation that is none of `NEG_DETECT`, `REG_ASSIGN` and `REG_UPLOAD_ALL` has nothing but the framer to rest. -/
theorem State.Inv.finish_of_op {op : Byte} (hop : s.curOp = some op)
    (hplain : op ∉ [opNegDetect, opRegAssign, opRegUploadAll]) (hf : s.frState = .idle) (c : ResultCode)
    (v : ResponseValue) : (s.finish c v).Inv := by
  simp only [List.mem_cons, List.not_mem_nil, or_false, not_or] at hplain
  obtain ⟨hnd, hra, hua⟩ := hplain
  exact h.finish hf (h.ngPhase_idle (by simpa [hop] using hnd)) (h.upActive_false (by simpa [hop] using hua))
    (h.storageReply_none (by simpa [hop] using hra)) c v

/-! ### The framer -/

/-- A return of `FrStep` in the operations it belongs to (R62, R87). -/
theorem State.Inv.frReturn
    (hop : s.curOp = some opFrTry ∨ (s.curOp = some opNegDetect ∧ s.ngPhase = .drain)) (hf : s.frState = .idle)
    (m : Option MidiMessage) (n : Nat) : (frReturn m n s).Inv := by
  obtain ⟨hc, c, v, -, e⟩ | ⟨hc, -, e⟩ | ⟨hc, -, l, e⟩ | ⟨-, -, e⟩ := frReturn_cases m n s <;> rw [e]
  · exact h.finish_of_op hc (by decide) hf c v
  · exact { h with
      captureOp := fun hcap => by rw [hf] at hcap; cases hcap
      phaseOp := fun _ => hc
      idleCollected := nofun }
  · have hdrain : s.ngPhase = .drain := by
      obtain hop | ⟨-, hp⟩ := hop
      · rw [hop] at hc; cases hc
      · exact hp
    exact { h with idleCollected := fun hp => by rw [hdrain] at hp; cases hp }
  · exact h

theorem State.Inv.withCapture (hop : s.curOp = some opFrTry ∨ (s.curOp = some opNegDetect ∧ s.ngPhase = .drain))
    (rx buf : List Byte) : { s with rx := rx, frState := .capture, frBuf := buf }.Inv :=
  { h with idleBuf := nofun, captureOp := fun _ => hop }

theorem State.Inv.withFramerIdle (rx : List Byte) : { s with rx := rx, frState := .idle, frBuf := [] }.Inv :=
  { h with idleBuf := fun _ => rfl, captureOp := nofun }

theorem State.Inv.rxDrop (k : Nat) : (s.rxDrop k).Inv :=
  h.outside _ _ _ _ _ _ _

theorem State.Inv.frStep (hop : s.curOp = some opFrTry ∨ (s.curOp = some opNegDetect ∧ s.ngPhase = .drain)) :
    (frStep s).Inv := by
  obtain ⟨hf, -, e⟩ | ⟨hf, -, e⟩ | ⟨hf, -, m, e⟩ | ⟨hf, -, e⟩ | ⟨hf, -, e⟩ | ⟨hf, -, e⟩ | ⟨hf, -, e⟩ |
    ⟨hf, b, r, -, -, e⟩ := frStep_cases s <;> rw [e]
  · exact h.frReturn hop hf _ _
  · exact h.frReturn hop hf _ _
  · exact (h.rxDrop 3).frReturn hop hf _ _
  · exact (h.rxDrop 1).frReturn hop hf _ _
  · exact h.withCapture hop _ _
  · exact h
  · exact (h.withFramerIdle _).frReturn hop rfl _ _
  · have hstore := h.withCapture hop (s.rx.drop 1) (s.frBuf ++ [b])
    rw [← hf] at hstore
    exact hstore

/-! ### The negotiator -/

theorem State.Inv.withPhase (hop : s.curOp = some opNegDetect) (hf : s.frState = .idle) {p : NgPhase} (hp : p ≠ .idle) :
    { s with ngPhase := p }.Inv :=
  { h with
    captureOp := fun hc => by rw [hf] at hc; cases hc
    phaseOp := fun _ => hop
    idleCollected := fun hc => absurd hc hp }

theorem State.Inv.ngSend (hop : s.curOp = some opNegDetect) (hf : s.frState = .idle) (hp : s.ngPhase = .idle) :
    (ngSend s).Inv := by
  have hsent := h.sinkTaken.txPush (txOk_txRecord Config.inquiryFrame s.sinkAnswer)
  have hop' : (s.sinkTaken.txPush (txRecord Config.inquiryFrame s.sinkAnswer)).curOp = some opNegDetect := by
    rw [← hop, State.curOp, State.curOp, txPush_cur, sinkTaken_cur]
  unfold Machine.ngSend
  dsimp only
  split
  · exact hsent.withPhase hop' (by simpa [State.txWrite] using hf) nofun
  · refine hsent.finish (by simpa using hf) (by simpa using hp) (hsent.upActive_false ?_) (hsent.storageReply_none ?_) _ _
    · rw [hop']; decide
    · rw [hop']; decide

theorem State.Inv.ngReset (hf : s.frState = .idle) : (ngReset s).Inv :=
  { h with
    captureOp := fun hc => by rw [ngReset_frState, hf] at hc; cases hc
    phaseOp := fun hc => absurd rfl hc
    idleCollected := fun _ => rfl }

theorem State.Inv.setConnected : s.setConnected.Inv :=
  { h with session := fun _ => rfl }

theorem State.Inv.missConnected : s.missConnected.Inv := by
  unfold State.missConnected
  split
  · exact { h with session := nofun }
  · exact h

theorem State.Inv.ngScan (hop : s.curOp = some opNegDetect) (hf : s.frState = .idle) : (ngScan s).Inv := by
  have hua : s.upActive = false := h.upActive_false (by rw [hop]; decide)
  have hra : s.storageReply = none := h.storageReply_none (by rw [hop]; decide)
  unfold Machine.ngScan
  split
  · exact (h.setConnected.ngReset hf).finish hf rfl hua hra _ _
  · exact (h.missConnected.ngReset (by simpa using hf)).finish (by simpa using hf) rfl (by simpa using hua)
      (by simpa using hra) _ _

/-! ### The command builder and the registry -/

theorem State.Inv.cbSend (cmd : Byte) (p : List Byte) : (cbSend cmd p s).2.Inv := by
  obtain ⟨-, e⟩ | ⟨-, e⟩ := cbSend_cases cmd p s <;> rw [e]
  · exact h
  · exact h.sinkTaken.txPush (txOk_txRecord _ _)

end

theorem cbSend_frState (cmd : Byte) (p : List Byte) (s : State) : (cbSend cmd p s).2.frState = s.frState := by
  obtain ⟨-, e⟩ | ⟨-, e⟩ := cbSend_cases cmd p s <;> simp [e]

theorem slotOk_uploaded {r : Slot} (hr : SlotOk r) (hst : r.status ≠ .empty) : SlotOk { r with status := .uploaded } :=
  ⟨nofun, fun _ => hr.2 hst⟩

/-- A dispatch writes slots and the TX port alone. -/
theorem dispatch_writes (i : Nat) (s : State) :
    (dispatch i s).2 =
      { s with
        slots := (dispatch i s).2.slots, tx := (dispatch i s).2.tx, sinkNext := (dispatch i s).2.sinkNext,
        draws := (dispatch i s).2.draws } := by
  obtain ⟨-, e⟩ | ⟨-, -, e⟩ | ⟨d, -, -, e⟩ := dispatch_cases i s <;> rw [e]
  unfold uploadDone State.sinkTaken
  cases s.sinkNext <;> split <;> rfl

section
variable {s : State} (h : s.Inv)
include h

theorem State.Inv.cbCommand {op : Byte} (hop : s.curOp = some op)
    (hplain : op ∉ [opNegDetect, opRegAssign, opRegUploadAll]) (hf : s.frState = .idle) (cmd : Byte) (p : List Byte) :
    (cbCommand cmd p s).Inv :=
  (h.cbSend cmd p).finish_of_op (by rw [cbSend_curOp, hop]) hplain (by rw [cbSend_frState, hf]) _ _

theorem State.Inv.dispatch (i : Nat) : (dispatch i s).2.Inv := by
  obtain ⟨-, e⟩ | ⟨-, -, e⟩ | ⟨d, hu, -, e⟩ := dispatch_cases i s <;> rw [e]
  · exact h
  · exact h
  · have hsent := h.sinkTaken.txPush (txOk_txRecord (cbFrame s.cfg 0x01 (uploadPayload i d)) s.sinkAnswer)
    obtain ⟨-, e'⟩ | ⟨-, e'⟩ := uploadDone_cases i (sinkIo s.sinkAnswer).code
      (s.sinkTaken.txPush (txRecord (cbFrame s.cfg 0x01 (uploadPayload i d)) s.sinkAnswer)) <;> rw [e']
    · refine hsent.setSlot (slotOk_uploaded (hsent.slotAt_ok i) ?_) i
      rw [slotAt_txPush_sinkTaken]
      exact (usable_eq_some.1 hu).1
    · exact hsent

theorem State.Inv.regUploadOne {op : Byte} (hop : s.curOp = some op)
    (hplain : op ∉ [opNegDetect, opRegAssign, opRegUploadAll]) (hf : s.frState = .idle) (i : Nat) :
    (regUploadOne i s).Inv := by
  unfold Machine.regUploadOne
  split
  · exact (h.dispatch i).finish_of_op (by rw [dispatch_writes]; exact hop) hplain (by rw [dispatch_writes]; exact hf) _ _
  · exact h.finish_of_op hop hplain hf _ _

theorem State.Inv.regUploadAll (hop : s.curOp = some opRegUploadAll) (hf : s.frState = .idle) :
    (regUploadAll s).Inv := by
  unfold Machine.regUploadAll
  split
  · split
    · have hrest : { s with upActive := false }.Inv := { h with passOp := nofun }
      exact hrest.finish hf (h.ngPhase_idle (by rw [hop]; decide)) rfl (h.storageReply_none (by rw [hop]; decide)) _ _
    · rename_i i rest hq
      have hnodup := h.queueNodup
      rw [hq] at hnodup
      exact (h.withQueue (List.nodup_cons.1 hnodup).2 fun j hj => h.queueRange j (by simp [hq, hj])).dispatch i
  · exact { h with passOp := fun _ => hop }

theorem State.Inv.regAssign {q : Request} (hq : s.cur = some q) (hop : q.op = opRegAssign) (hf : s.frState = .idle) :
    (regAssign q.slot q.path s).Inv := by
  have hcur : s.curOp = some opRegAssign := by rw [curOp_of_cur hq, hop]
  have hp : s.ngPhase = .idle := h.ngPhase_idle (by rw [hcur]; decide)
  have hua : s.upActive = false := h.upActive_false (by rw [hcur]; decide)
  unfold Machine.regAssign
  split
  · rename_i hi
    split
    · exact { h.storageTaken with
        replyOp := fun _ => ⟨q, by rw [← hq]; exact storageTaken_cur s, hop, by simpa [State.storageRead] using hi⟩ }
    · have hread : { s with storageReply := none }.Inv := { h with replyOp := fun hc => absurd rfl hc }
      unfold assignFinish
      split
      · exact hread.finish hf hp hua rfl _ _
      · rename_i d _
        have hslot : SlotOk (assignedSlot s.cfg q.path d) := ⟨nofun, fun _ => ⟨d, rfl, rfl⟩⟩
        refine ((hread.setSlot hslot q.slot).enqueue hi).finish ?_ ?_ ?_ ?_ _ _
        · simpa using hf
        · simpa using hp
        · simpa using hua
        · simp
  · exact h.finish hf hp hua (by
      by_contra hr
      obtain ⟨q', hq', -, hlt⟩ := h.replyOp hr
      rw [hq] at hq'
      cases hq'
      contradiction) _ _

theorem State.Inv.regClear {op : Byte} (hop : s.curOp = some op)
    (hplain : op ∉ [opNegDetect, opRegAssign, opRegUploadAll]) (hf : s.frState = .idle) (i : Nat) :
    (regClear i s).Inv := by
  by_cases hi : s.InRange i
  · rw [regClear_of_inRange hi]
    exact (h.setSlot slotOk_cleared i).finish_of_op hop hplain hf _ _
  · rw [regClear_of_not_inRange hi]
    exact h.finish_of_op hop hplain hf _ _

/-! ### Every move and every step -/

theorem State.Inv.engineMove {t : State} (hm : EngineMove s t) : t.Inv := by
  cases hm with
  | framer hop =>
    refine h.frStep ?_
    obtain hop | hop | hf := hop
    · exact .inl hop
    · exact .inr hop
    · exact h.captureOp hf
  | codec v n hf hop =>
    have hdraw := h.outside s.rx s.resp s.schedule s.forever s.sinkNext s.storageNext n
    obtain hop | hop := hop
    · exact hdraw.finish_of_op hop (by decide) hf _ _
    · exact hdraw.finish_of_op hop (by decide) hf _ _
  | send hf hop hp => exact h.ngSend hop hf hp
  | scan hf hop _ => exact h.ngScan hop hf
  | query q hf hq hop =>
    unfold cbQuery
    split
    · exact h.cbCommand (curOp_of_cur hq) (by rw [hop]; decide) hf _ _
    · exact h.finish_of_op (curOp_of_cur hq) (by rw [hop]; decide) hf _ _
  | save hf hop => exact h.cbCommand hop (by decide) hf _ _
  | assign q hf hq hop => exact h.regAssign hq hop hf
  | uploadOne q hf hq hop => exact h.regUploadOne (curOp_of_cur hq) (by rw [hop]; decide) hf _
  | uploadAll hf hop => exact h.regUploadAll hop hf
  | clear q hf hq hop => exact h.regClear (curOp_of_cur hq) (by rw [hop]; decide) hf _
  | read v c hf hop _ =>
    obtain hop | hop | hop := hop
    · exact h.finish_of_op hop (by decide) hf _ _
    · exact h.finish_of_op hop (by decide) hf _ _
    · exact h.finish_of_op hop (by decide) hf _ _
  | illegal op hf hop ho =>
    refine h.finish_of_op hop (fun hmem => ho ?_) hf _ _
    have hlegal : ∀ b ∈ [opNegDetect, opRegAssign, opRegUploadAll], b ∈ legalOps := by decide
    exact hlegal op hmem

theorem State.Inv.turns (sch : List Turn) (f : Forever) : { s with schedule := sch, forever := f }.Inv :=
  h.outside s.rx s.resp sch f s.sinkNext s.storageNext s.draws

/-- A request is taken by an engine at rest. -/
theorem State.Inv.accept (he : s.eng = .idle) (q : Request) : (s.accept q).Inv := by
  have hcur := h.cur_none he
  have hp : s.ngPhase = .idle := h.ngPhase_idle (by rw [hcur]; nofun)
  have hf : s.frState = .idle := h.frState_idle (by rw [hcur]; nofun) (by rw [hp]; nofun)
  have hua : s.upActive = false := h.upActive_false (by rw [hcur]; nofun)
  have hra : s.storageReply = none := h.storageReply_none (by rw [hcur]; nofun)
  exact { h with
    idleIff := ⟨nofun, nofun⟩
    captureOp := fun hc => by rw [accept_frState, hf] at hc; cases hc
    phaseOp := fun hc => absurd hp hc
    passOp := fun hc => by rw [accept_upActive, hua] at hc; cases hc
    replyOp := fun hc => absurd hra hc }

theorem State.Inv.settleEnd (hp : s.ngPhase = .settle) : (settleEnd s).Inv := by
  have hop := h.phaseOp (by rw [hp]; nofun)
  exact h.withPhase hop (h.frState_idle (by rw [hop]; decide) (by rw [hp]; nofun)) nofun

theorem State.Inv.machineMove {t : State} {sch : List Turn} {f : Forever} (hm : MachineMove s sch f t) : t.Inv := by
  cases hm with
  | engine r i _ _ _ hm => exact (h.turns r f).engineMove hm
  | push b r _ => exact h.outside _ _ _ _ _ _ _
  | settle r _ hp => exact (h.turns r f).settleEnd hp
  | request q r _ he => exact (h.turns r f).accept he q
  | rest r _ => exact h.turns r f

end

/-- Settles O15: every step is a move, and every move keeps the invariant. -/
theorem everyStepKeepsTheInvariant : Obligations.EveryStepKeepsTheInvariant := by
  intro s t h hstep
  obtain ⟨-, hmove⟩ := step_cases hstep
  exact h.machineMove hmove

end Sys2Proof.Machine
end

section
/-! What a step can write, component by component (10_state.md): the session, the slots, the queue, the TX port and the
responses. Each is said once of an engine move and then read for a step. -/

namespace Sys2Proof.Machine

/-! ### The fields each operation writes -/

theorem sinkTaken_writes (s : State) :
    s.sinkTaken = { s with sinkNext := s.sinkTaken.sinkNext, draws := s.sinkTaken.draws } := by
  unfold State.sinkTaken
  split <;> rfl

theorem storageTaken_writes (s : State) :
    s.storageTaken = { s with storageNext := s.storageTaken.storageNext, draws := s.storageTaken.draws } := by
  unfold State.storageTaken
  split <;> rfl

theorem ngSend_writes (s : State) :
    ngSend s =
      { s with
        eng := (ngSend s).eng, cur := (ngSend s).cur, ngPhase := (ngSend s).ngPhase, tx := (ngSend s).tx,
        resp := (ngSend s).resp, sinkNext := (ngSend s).sinkNext, draws := (ngSend s).draws } := by
  cases h : s.sinkAnswer with
  | ok => rw [ngSend_ok h, sinkTaken_writes]
  | ioError k => rw [ngSend_ioError h, sinkTaken_writes]

theorem ngScan_writes (s : State) :
    ngScan s =
      { s with
        eng := .idle, cur := none, ngPhase := .idle, ngCollected := [], connected := (ngScan s).connected,
        matched := (ngScan s).matched, resp := (ngScan s).resp } := by
  unfold ngScan
  split
  · rfl
  · rw [missConnected_eq]
    rfl

theorem cbCommand_writes (cmd : Byte) (p : List Byte) (s : State) :
    cbCommand cmd p s =
      { s with
        eng := .idle, cur := none, tx := (cbCommand cmd p s).tx, resp := (cbCommand cmd p s).resp,
        sinkNext := (cbCommand cmd p s).sinkNext, draws := (cbCommand cmd p s).draws } := by
  unfold cbCommand
  obtain ⟨-, e⟩ | ⟨-, e⟩ := cbSend_cases cmd p s <;> rw [e]
  · rfl
  · rw [sinkTaken_writes]
    rfl

theorem cbQuery_writes (i : Nat) (s : State) :
    cbQuery i s =
      { s with
        eng := .idle, cur := none, tx := (cbQuery i s).tx, resp := (cbQuery i s).resp,
        sinkNext := (cbQuery i s).sinkNext, draws := (cbQuery i s).draws } := by
  unfold cbQuery
  split
  · exact cbCommand_writes _ _ s
  · rfl

theorem assignFinish_writes (i : Nat) (path : Path) (a : StorageAnswer) (s : State) :
    assignFinish i path a s =
      { s with
        eng := .idle, cur := none, slots := (assignFinish i path a s).slots, queue := (assignFinish i path a s).queue,
        resp := (assignFinish i path a s).resp } := by
  unfold assignFinish
  split
  · rfl
  · rw [enqueue_eq]
    rfl

theorem regAssign_writes (i : Nat) (path : Path) (s : State) :
    regAssign i path s =
      { s with
        eng := (regAssign i path s).eng, cur := (regAssign i path s).cur, slots := (regAssign i path s).slots,
        queue := (regAssign i path s).queue, resp := (regAssign i path s).resp,
        storageReply := (regAssign i path s).storageReply, storageNext := (regAssign i path s).storageNext,
        draws := (regAssign i path s).draws } := by
  unfold regAssign
  split
  · split
    · unfold State.storageRead
      dsimp only
      rw [storageTaken_writes]
    · rw [assignFinish_writes]
  · rfl

theorem regUploadOne_writes (i : Nat) (s : State) :
    regUploadOne i s =
      { s with
        eng := .idle, cur := none, slots := (regUploadOne i s).slots, tx := (regUploadOne i s).tx,
        resp := (regUploadOne i s).resp, sinkNext := (regUploadOne i s).sinkNext, draws := (regUploadOne i s).draws } := by
  unfold regUploadOne
  split
  · dsimp only
    rw [dispatch_writes]
    rfl
  · rfl

theorem regUploadAll_writes (s : State) :
    regUploadAll s =
      { s with
        eng := (regUploadAll s).eng, cur := (regUploadAll s).cur, upActive := (regUploadAll s).upActive,
        slots := (regUploadAll s).slots, queue := (regUploadAll s).queue, tx := (regUploadAll s).tx,
        resp := (regUploadAll s).resp, sinkNext := (regUploadAll s).sinkNext, draws := (regUploadAll s).draws } := by
  unfold regUploadAll
  split
  · split
    · rfl
    · rw [dispatch_writes]
  · rfl

theorem regClear_writes (i : Nat) (s : State) :
    regClear i s =
      { s with eng := .idle, cur := none, slots := (regClear i s).slots, resp := (regClear i s).resp } := by
  unfold regClear
  split <;> rfl

end Sys2Proof.Machine
end

section
/-! The statements about every step (10_state.md): each component is written by the operations that own it. -/

namespace Sys2Proof.Machine

/-! ### Configuration and turns -/

theorem EngineMove.fixed {s t : State} (h : EngineMove s t) :
    t.cfg = s.cfg ∧ t.schedule = s.schedule ∧ t.forever = s.forever := by
  cases h with
  | framer _ => exact ⟨(frStep_frame s).cfg, (frStep_frame s).schedule, (frStep_frame s).forever⟩
  | codec | read | illegal => exact ⟨rfl, rfl, rfl⟩
  | send => rw [ngSend_writes]; exact ⟨rfl, rfl, rfl⟩
  | scan => rw [ngScan_writes]; exact ⟨rfl, rfl, rfl⟩
  | query => rw [cbQuery_writes]; exact ⟨rfl, rfl, rfl⟩
  | save => rw [cbSave, cbCommand_writes]; exact ⟨rfl, rfl, rfl⟩
  | assign => rw [regAssign_writes]; exact ⟨rfl, rfl, rfl⟩
  | uploadOne => rw [regUploadOne_writes]; exact ⟨rfl, rfl, rfl⟩
  | uploadAll => rw [regUploadAll_writes]; exact ⟨rfl, rfl, rfl⟩
  | clear => rw [regClear_writes]; exact ⟨rfl, rfl, rfl⟩

/-! ### The session (R22) -/

theorem EngineMove.session {s t : State} (h : EngineMove s t) :
    (t.connected = s.connected ∧ t.matched = s.matched) ∨ (s.curOp = some opNegDetect ∧ s.ngPhase = .scan) := by
  cases h with
  | framer _ => exact .inl ⟨(frStep_frame s).connected, (frStep_frame s).matched⟩
  | codec | read | illegal => exact .inl ⟨rfl, rfl⟩
  | send => rw [ngSend_writes]; exact .inl ⟨rfl, rfl⟩
  | scan _ hop hp => exact .inr ⟨hop, hp⟩
  | query => rw [cbQuery_writes]; exact .inl ⟨rfl, rfl⟩
  | save => rw [cbSave, cbCommand_writes]; exact .inl ⟨rfl, rfl⟩
  | assign => rw [regAssign_writes]; exact .inl ⟨rfl, rfl⟩
  | uploadOne => rw [regUploadOne_writes]; exact .inl ⟨rfl, rfl⟩
  | uploadAll => rw [regUploadAll_writes]; exact .inl ⟨rfl, rfl⟩
  | clear => rw [regClear_writes]; exact .inl ⟨rfl, rfl⟩

/-! ### The TX port (R30) -/

/-- The frames a move may send, with what it needs to send them (R85, R92, R94 to R96). -/
inductive Sent (s : State) : List Byte → Prop
  | inquiry (hop : s.curOp = some opNegDetect) : Sent s Config.inquiryFrame
  | query (i : Nat) (hi : s.InRange i) (hc : s.connected = true) : Sent s (cbFrame s.cfg 0x02 [slotByte i])
  | save (hc : s.connected = true) : Sent s (cbFrame s.cfg 0x03 [])
  | upload (i : Nat) (d : List Byte) (hi : s.InRange i ∨ i ∈ s.queue) (hc : s.connected = true) :
      Sent s (uploadFrame s.cfg i d)

/-- A move sends nothing, or one frame in one record. -/
def TxGrows (s t : State) : Prop := t.tx = s.tx ∨ ∃ f, Sent s f ∧ t.tx = s.tx ++ [txRecord f s.sinkAnswer]

theorem ngSend_tx (s : State) : (ngSend s).tx = s.tx ++ [txRecord Config.inquiryFrame s.sinkAnswer] := by
  cases h : s.sinkAnswer with
  | ok => rw [ngSend_ok h]; rfl
  | ioError k => rw [ngSend_ioError h]; rfl

theorem cbCommand_tx {cmd : Byte} {p : List Byte} {s : State}
    (hsent : s.connected = true → Sent s (cbFrame s.cfg cmd p)) : TxGrows s (cbCommand cmd p s) := by
  unfold cbCommand
  obtain ⟨-, e⟩ | ⟨hc, e⟩ := cbSend_cases cmd p s <;> rw [e]
  · exact .inl rfl
  · exact .inr ⟨_, hsent hc, by rw [finish_tx, txPush_tx, sinkTaken_tx]⟩

theorem uploadDone_writes (i : Nat) (c : ResultCode) (s : State) :
    uploadDone i c s = { s with slots := (uploadDone i c s).slots } := by
  obtain ⟨-, e⟩ | ⟨-, e⟩ := uploadDone_cases i c s <;> rw [e]
  rfl

theorem dispatch_tx (i : Nat) (s : State) :
    (dispatch i s).2.tx = s.tx ∨
      (s.connected = true ∧ ∃ d, (dispatch i s).2.tx = s.tx ++ [txRecord (uploadFrame s.cfg i d) s.sinkAnswer]) := by
  obtain ⟨-, e⟩ | ⟨-, -, e⟩ | ⟨d, -, hc, e⟩ := dispatch_cases i s <;> rw [e]
  · exact .inl rfl
  · exact .inl rfl
  · refine .inr ⟨hc, d, ?_⟩
    rw [uploadDone_writes, txPush_tx, sinkTaken_tx]
    rfl

theorem EngineMove.tx {s t : State} (h : EngineMove s t) : TxGrows s t := by
  cases h with
  | framer _ => exact .inl (frStep_frame s).tx
  | codec | read | illegal => exact .inl rfl
  | send _ hop _ => exact .inr ⟨_, .inquiry hop, ngSend_tx s⟩
  | scan => rw [ngScan_writes]; exact .inl rfl
  | query q _ _ _ =>
    unfold cbQuery
    split
    · exact cbCommand_tx fun hc => .query q.slot ‹_› hc
    · exact .inl rfl
  | save _ _ => exact cbCommand_tx .save
  | assign => rw [regAssign_writes]; exact .inl rfl
  | uploadOne q _ _ _ =>
    unfold regUploadOne
    split
    · obtain e | ⟨hc, d, e⟩ := dispatch_tx q.slot s
      · exact .inl e
      · exact .inr ⟨_, .upload q.slot d (.inl ‹_›) hc, e⟩
    · exact .inl rfl
  | uploadAll _ _ =>
    unfold regUploadAll
    split
    · split
      · exact .inl rfl
      · rename_i i rest hq
        obtain e | ⟨hc, d, e⟩ := dispatch_tx i { s with queue := rest }
        · exact .inl e
        · exact .inr ⟨_, .upload i d (.inr (by rw [hq]; exact List.mem_cons_self)) hc, e⟩
    · exact .inl rfl
  | clear => rw [regClear_writes]; exact .inl rfl

/-! ### The slots (R26, R99) -/

/-- The slot writes a move may do, with what it needs to do them. -/
inductive SlotWrite (s : State) : Nat → Slot → Prop
  | assign (q : Request) (d : List Byte) (hq : s.cur = some q) (hop : q.op = opRegAssign)
      (hr : s.storageReply = some (.ok d)) : SlotWrite s q.slot (assignedSlot s.cfg q.path d)
  | upload (q : Request) (i : Nat) (d : List Byte) (hq : s.cur = some q)
      (hop : (q.op = opRegUploadOne ∧ q.slot = i) ∨ (q.op = opRegUploadAll ∧ s.queue.head? = some i))
      (hu : (s.slotAt i).usable = some d) (hc : s.connected = true) (ha : s.sinkAnswer = .ok) :
      SlotWrite s i { s.slotAt i with status := .uploaded }
  | clear (q : Request) (hq : s.cur = some q) (hop : q.op = 0x33) : SlotWrite s q.slot Slot.cleared

/-- A move writes no slot, or one. -/
def SlotsChange (s t : State) : Prop := t.slots = s.slots ∨ ∃ i v, SlotWrite s i v ∧ t.slots = s.slots.set i v

theorem dispatch_slots (i : Nat) (s : State) :
    (dispatch i s).2.slots = s.slots ∨
      (s.connected = true ∧ s.sinkAnswer = .ok ∧ (∃ d, (s.slotAt i).usable = some d) ∧
        (dispatch i s).2.slots = s.slots.set i { s.slotAt i with status := .uploaded }) := by
  cases hu : (s.slotAt i).usable with
  | none => exact .inl (by rw [dispatch_unusable hu])
  | some d =>
    cases hc : s.connected with
    | false => exact .inl (by rw [dispatch_declined hu hc])
    | true =>
      cases ha : s.sinkAnswer with
      | ok => exact .inr ⟨rfl, rfl, ⟨d, rfl⟩, by rw [dispatch_ok hu hc ha, setStatus_txPush_sinkTaken]⟩
      | ioError k => exact .inl (by rw [dispatch_ioError hu hc ha, txPush_slots, sinkTaken_slots])

theorem regAssign_slots {q : Request} {s : State} (hq : s.cur = some q) (hop : q.op = opRegAssign) :
    SlotsChange s (regAssign q.slot q.path s) := by
  unfold regAssign
  split
  · split
    · exact .inl (storageTaken_slots s)
    · rename_i a ha
      cases a with
      | ioError => exact .inl rfl
      | ok d => exact .inr ⟨_, _, .assign q d hq hop ha, by rw [assignFinish, finish_slots, enqueue_slots]; rfl⟩
  · exact .inl rfl

theorem EngineMove.slots {s t : State} (h : EngineMove s t) : SlotsChange s t := by
  cases h with
  | framer _ => exact .inl (frStep_frame s).slots
  | codec | read | illegal => exact .inl rfl
  | send => rw [ngSend_writes]; exact .inl rfl
  | scan => rw [ngScan_writes]; exact .inl rfl
  | query => rw [cbQuery_writes]; exact .inl rfl
  | save => rw [cbSave, cbCommand_writes]; exact .inl rfl
  | assign q _ hq hop => exact regAssign_slots hq hop
  | uploadOne q _ hq hop =>
    unfold regUploadOne
    split
    · obtain e | ⟨hc, ha, ⟨d, hu⟩, e⟩ := dispatch_slots q.slot s
      · exact .inl e
      · exact .inr ⟨_, _, .upload q q.slot d hq (.inl ⟨hop, rfl⟩) hu hc ha, e⟩
    · exact .inl rfl
  | uploadAll _ hop =>
    obtain ⟨q, hq, hqop⟩ := Option.map_eq_some_iff.1 hop
    unfold regUploadAll
    split
    · split
      · exact .inl rfl
      · rename_i i rest hqueue
        obtain e | ⟨hc, ha, ⟨d, hu⟩, e⟩ := dispatch_slots i { s with queue := rest }
        · exact .inl e
        · exact .inr ⟨_, _, .upload q i d hq (.inr ⟨hqop, by rw [hqueue]; rfl⟩) hu hc ha, e⟩
    · exact .inl rfl
  | clear q _ hq hop =>
    by_cases hi : s.InRange q.slot
    · exact .inr ⟨_, _, .clear q hq hop, by rw [regClear_of_inRange hi]; rfl⟩
    · exact .inl (by rw [regClear_of_not_inRange hi]; rfl)

/-! ### The queue (R27) -/

/-- The queue stays, grows by the slot of a `REG_ASSIGN`, or loses its head to a pass. -/
inductive QueueChange (s t : State) : Prop
  | same (h : t.queue = s.queue)
  | append (q : Request) (hq : s.cur = some q) (hop : q.op = opRegAssign) (hmem : q.slot ∉ s.queue)
      (h : t.queue = s.queue ++ [q.slot])
  | remove (q : Request) (hq : s.cur = some q) (hop : q.op = opRegUploadAll) (hu : s.upActive = true) (i : Nat)
      (h : s.queue = i :: t.queue)

theorem regAssign_queue {q : Request} {s : State} (hq : s.cur = some q) (hop : q.op = opRegAssign) :
    QueueChange s (regAssign q.slot q.path s) := by
  unfold regAssign
  split
  · split
    · exact .same (storageTaken_queue s)
    · rename_i a _
      cases a with
      | ioError => exact .same rfl
      | ok d =>
        by_cases hmem : q.slot ∈ s.queue
        · exact .same (by rw [assignFinish, finish_queue, enqueue_queue]; exact if_pos hmem)
        · exact .append q hq hop hmem (by rw [assignFinish, finish_queue, enqueue_queue]; exact if_neg hmem)
  · exact .same rfl

theorem EngineMove.queue {s t : State} (h : EngineMove s t) : QueueChange s t := by
  cases h with
  | framer _ => exact .same (frStep_frame s).queue
  | codec | read | illegal => exact .same rfl
  | send => rw [ngSend_writes]; exact .same rfl
  | scan => rw [ngScan_writes]; exact .same rfl
  | query => rw [cbQuery_writes]; exact .same rfl
  | save => rw [cbSave, cbCommand_writes]; exact .same rfl
  | assign q _ hq hop => exact regAssign_queue hq hop
  | uploadOne => rw [regUploadOne_writes]; exact .same rfl
  | uploadAll _ hop =>
    obtain ⟨q, hq, hqop⟩ := Option.map_eq_some_iff.1 hop
    unfold regUploadAll
    split
    · rename_i hu
      split
      · exact .same rfl
      · rename_i i rest hqueue
        exact .remove q hq hqop hu i (by rw [dispatch_writes]; exact hqueue)
    · exact .same rfl
  | clear => rw [regClear_writes]; exact .same rfl

/-! ### The end of an operation (R18, R32) -/

/-- A move goes on with its operation and answers nothing, or ends it with one response. -/
inductive Ending (s t : State) : Prop
  | goesOn (hresp : t.resp = s.resp) (heng : t.eng = s.eng) (hcur : t.cur = s.cur)
  | ends (r : Response) (hresp : t.resp = s.resp ++ [r]) (heng : t.eng = .idle) (hcur : t.cur = none)

theorem ending_finish {s u : State} (hu : u.resp = s.resp) (c : ResultCode) (v : ResponseValue) :
    Ending s (u.finish c v) :=
  .ends { code := c, value := v } (by rw [finish_resp, hu]) rfl rfl

theorem frReturn_ending (m : Option MidiMessage) (n : Nat) {s u : State} (hresp : u.resp = s.resp)
    (heng : u.eng = s.eng) (hcur : u.cur = s.cur) : Ending s (frReturn m n u) := by
  obtain ⟨-, c, v, -, e⟩ | ⟨-, -, e⟩ | ⟨-, -, l, e⟩ | ⟨-, -, e⟩ := frReturn_cases m n u <;> rw [e]
  · exact ending_finish hresp c v
  · exact .goesOn hresp heng hcur
  · exact .goesOn hresp heng hcur
  · exact .goesOn hresp heng hcur

theorem frStep_ending (s : State) : Ending s (frStep s) := by
  obtain ⟨-, -, h⟩ | ⟨-, -, h⟩ | ⟨-, -, m, h⟩ | ⟨-, -, h⟩ | ⟨-, -, h⟩ | ⟨-, -, h⟩ | ⟨-, -, h⟩ | ⟨-, b, r, -, -, h⟩ :=
    frStep_cases s <;> rw [h]
  · exact frReturn_ending _ _ rfl rfl rfl
  · exact frReturn_ending _ _ rfl rfl rfl
  · exact frReturn_ending _ _ rfl rfl rfl
  · exact frReturn_ending _ _ rfl rfl rfl
  · exact .goesOn rfl rfl rfl
  · exact .goesOn rfl rfl rfl
  · exact frReturn_ending _ _ rfl rfl rfl
  · exact .goesOn rfl rfl rfl

theorem cbSend_resp (cmd : Byte) (p : List Byte) (s : State) : (cbSend cmd p s).2.resp = s.resp := by
  obtain ⟨-, e⟩ | ⟨-, e⟩ := cbSend_cases cmd p s <;> rw [e]
  rw [txPush_resp, sinkTaken_resp]

theorem EngineMove.ending {s t : State} (h : EngineMove s t) : Ending s t := by
  cases h with
  | framer _ => exact frStep_ending s
  | codec | read | illegal => exact ending_finish (by rfl) _ _
  | send =>
    cases ha : s.sinkAnswer with
    | ok => rw [ngSend_ok ha]; exact .goesOn (sinkTaken_resp s) (sinkTaken_eng s) (sinkTaken_cur s)
    | ioError k => exact .ends _ (by rw [ngSend_ioError ha]) (by rw [ngSend_ioError ha]) (by rw [ngSend_ioError ha])
  | scan =>
    unfold ngScan
    split
    · exact ending_finish (by rfl) _ _
    · exact ending_finish (by rw [ngReset_resp, missConnected_resp]) _ _
  | query q _ _ _ =>
    unfold cbQuery
    split
    · exact ending_finish (cbSend_resp _ _ s) _ _
    · exact ending_finish (by rfl) _ _
  | save _ _ => exact ending_finish (cbSend_resp _ _ s) _ _
  | assign q _ _ _ =>
    unfold regAssign
    split
    · split
      · exact .goesOn (storageTaken_resp s) (storageTaken_eng s) (storageTaken_cur s)
      · unfold assignFinish
        split
        · exact ending_finish (by rfl) _ _
        · exact ending_finish (by rw [enqueue_resp, setSlot_resp]) _ _
    · exact ending_finish (by rfl) _ _
  | uploadOne q _ _ _ =>
    unfold regUploadOne
    split
    · exact ending_finish (dispatch_resp q.slot s) _ _
    · exact ending_finish (by rfl) _ _
  | uploadAll _ _ =>
    unfold regUploadAll
    split
    · split
      · exact ending_finish (by rfl) _ _
      · rw [dispatch_writes]; exact .goesOn rfl rfl rfl
    · exact .goesOn rfl rfl rfl
  | clear q _ _ _ =>
    unfold regClear
    split
    · exact ending_finish (by rfl) _ _
    · exact ending_finish (by rfl) _ _

/-! ### Steps -/

/-- What every step of the environment, and a turn passed over, leave. -/
structure EnvFrame (s t : State) : Prop where
  cfg       : t.cfg = s.cfg
  resp      : t.resp = s.resp
  tx        : t.tx = s.tx
  slots     : t.slots = s.slots
  queue     : t.queue = s.queue
  connected : t.connected = s.connected
  matched   : t.matched = s.matched
  busy      : s.eng = .busy → t.eng = .busy

/-- A step is an engine move of the state with other turns to come, or keeps the frame of the environment. -/
theorem step_effect {s t : State} (h : step s = .next t) :
    (∃ r f, s.eng = .busy ∧ EngineMove { s with schedule := r, forever := f } t) ∨ EnvFrame s t := by
  obtain ⟨-, hmove⟩ := step_cases h
  cases hmove with
  | engine r i _ _ hi hm =>
    obtain ⟨q, hbusy, -⟩ := running_of_fetch hi
    exact .inl ⟨r, _, hbusy, hm⟩
  | push b r _ => exact .inr ⟨rfl, rfl, rfl, rfl, rfl, rfl, rfl, id⟩
  | settle r _ _ => exact .inr ⟨rfl, rfl, rfl, rfl, rfl, rfl, rfl, id⟩
  | request q r _ _ => exact .inr ⟨rfl, rfl, rfl, rfl, rfl, rfl, rfl, fun _ => rfl⟩
  | rest r _ => exact .inr ⟨rfl, rfl, rfl, rfl, rfl, rfl, rfl, id⟩

/-! ### Every frame sent is clean (R8, R91) -/

theorem frameClean_inquiry : FrameClean Config.inquiryFrame :=
  ⟨[0x7E, 0x00, 0x06, 0x01], rfl, by decide⟩

/-- A command frame of data bytes has the wire format. -/
theorem frameClean_cbFrame {c : Config} (hc : c.WellFormed) {cmd : Byte} {p : List Byte} (hcmd : Byte.isData cmd)
    (hp : ∀ b ∈ p, Byte.isData b) : FrameClean (cbFrame c cmd p) := by
  obtain ⟨-, -, hm, hd⟩ := hc
  refine ⟨c.mfrId ++ [c.deviceId] ++ cmd :: p, by simp [cbFrame, frameHeader], fun b hb => ?_⟩
  simp only [List.mem_append, List.mem_cons, List.not_mem_nil, or_false] at hb
  obtain (hb | rfl) | rfl | hb := hb
  · exact hm b hb
  · exact hd
  · exact hcmd
  · exact hp b hb

/-- `NUM_SLOTS` is at most 128, so the byte of a slot in range is a data byte. -/
theorem slotByte_isData {c : Config} (hc : c.WellFormed) {i : Nat} (hi : i < c.numSlots) : Byte.isData (slotByte i) := by
  obtain ⟨⟨-, hmax⟩, -⟩ := hc
  rw [isData_iff_lt, slotByte, BitVec.toNat_ofNat]
  omega

theorem frameClean_of_sent {s : State} (h : s.Inv) {f : List Byte} (hf : Sent s f) : FrameClean f := by
  have hwf : s.cfg.WellFormed := h.legal.1
  cases hf with
  | inquiry _ => exact frameClean_inquiry
  | query i hi _ =>
    refine frameClean_cbFrame hwf (by decide) fun b hb => ?_
    rw [List.mem_singleton.1 hb]
    exact slotByte_isData hwf hi
  | save _ => exact frameClean_cbFrame hwf (by decide) nofun
  | upload i d hi _ =>
    refine frameClean_cbFrame hwf (by decide) fun b hb => ?_
    obtain rfl | hb := List.mem_cons.1 hb
    · exact slotByte_isData hwf (hi.elim id (h.queueRange i))
    · exact enc7_isData d b (List.mem_of_mem_take hb)

/-- Settles O16: a step adds at most one frame, and each frame a move may send is clean. -/
theorem everyFrameSentIsSevenBitClean : Obligations.EveryFrameSentIsSevenBitClean := by
  intro s t h hclean hstep
  obtain ⟨r, f, -, hm⟩ | henv := step_effect hstep
  · obtain e | ⟨g, hsent, e⟩ := hm.tx
    · intro x hx
      exact hclean x (by rwa [e] at hx)
    · intro x hx
      rw [e] at hx
      obtain hx | hx := List.mem_append.1 hx
      · exact hclean x hx
      · rw [List.mem_singleton.1 hx]
        exact frameClean_of_sent (h.turns r f) hsent
  · intro x hx
    exact hclean x (by rwa [henv.tx] at hx)

/-- Settles O17: an engine move appends at most one record and one response, and the environment none. -/
theorem sentAndAnsweredNeverChange : Obligations.SentAndAnsweredNeverChange := by
  intro s t hstep
  obtain ⟨r, f, -, hm⟩ | henv := step_effect hstep
  · refine ⟨?_, ?_, hm.fixed.1⟩
    · obtain e | ⟨g, -, e⟩ := hm.tx
      · exact .inl e
      · exact .inr ⟨_, e⟩
    · cases hm.ending with
      | goesOn hresp _ _ => exact .inl hresp
      | ends a hresp _ _ => exact .inr ⟨a, hresp⟩
  · exact ⟨.inl henv.tx, .inl henv.resp, henv.cfg⟩

/-- Settles O18: an engine move that answers ends the operation, and only such a move makes a busy engine idle. -/
theorem oneResponsePerOperation : Obligations.OneResponsePerOperation := by
  intro s t hstep
  obtain ⟨r, f, hbusy, hm⟩ | henv := step_effect hstep
  · cases hm.ending with
    | goesOn hresp heng _ =>
      exact ⟨fun hne => absurd hresp hne, fun _ hidle => by rw [heng] at hidle; rw [hbusy] at hidle; cases hidle⟩
    | ends a hresp heng hcur => exact ⟨fun _ => ⟨hbusy, heng, hcur⟩, fun _ _ => by rw [hresp]; simp⟩
  · exact ⟨fun hne => absurd henv.resp hne, fun hbusy hidle => by rw [henv.busy hbusy] at hidle; cases hidle⟩

/-- Settles O19: of the moves only the scan writes the session. -/
theorem sessionIsWrittenOnlyByTheScan : Obligations.SessionIsWrittenOnlyByTheScan := by
  intro s t hstep hne
  obtain ⟨r, f, -, hm⟩ | henv := step_effect hstep
  · obtain ⟨hc, hmatched⟩ | hscan := hm.session
    · exact hne.elim (absurd hc) (absurd hmatched)
    · exact hscan
  · exact hne.elim (absurd henv.connected) (absurd henv.matched)

/-- A step writes no slot, or one as `SlotWrite` says. -/
theorem step_slots {s t : State} (h : step s = .next t) : SlotsChange s t := by
  obtain ⟨r, f, -, hm⟩ | henv := step_effect h
  · obtain e | ⟨i, v, hw, e⟩ := hm.slots
    · exact .inl e
    · refine .inr ⟨i, v, ?_, e⟩
      cases hw with
      | assign q d hq hop hr => exact .assign q d hq hop hr
      | upload q i d hq hop hu hc ha => exact .upload q i d hq hop hu hc ha
      | clear q hq hop => exact .clear q hq hop
  · exact .inl henv.slots

theorem slotAt_of_set {s t : State} {i : Nat} {v : Slot} (h : t.slots = s.slots.set i v) (j : Nat) :
    t.slotAt j = if i = j ∧ i < s.slots.length then v else s.slotAt j := by
  rw [← slotAt_setSlot]
  exact slotAt_congr h j

/-- Settles O20: the status that changes is that of the one slot written, and each write has its own status. -/
theorem slotStatusTransitions : Obligations.SlotStatusTransitions := by
  intro s t i hstep hne
  obtain e | ⟨j, v, hw, e⟩ := step_slots hstep
  · exact absurd (by rw [slotAt_congr e]) hne
  · rw [slotAt_of_set e] at hne ⊢
    split at hne
    · rename_i hij
      rw [if_pos hij]
      obtain ⟨rfl, -⟩ := hij
      cases hw with
      | assign q d hq hop hr => exact ⟨q, hq, .inl ⟨rfl, hop, rfl, d, hr⟩⟩
      | upload q _ d hq hop hu hc ha =>
        obtain ⟨hst, hdata, hd⟩ := usable_eq_some.1 hu
        obtain ⟨b, d', rfl⟩ := List.exists_cons_of_ne_nil hd
        exact ⟨q, hq, .inr (.inl ⟨rfl, hop, hst, ⟨b, d', hdata⟩, hc, ha⟩)⟩
      | clear q hq hop => exact ⟨q, hq, .inr (.inr ⟨rfl, hop, rfl⟩)⟩
    · exact absurd rfl hne

/-- Settles O21: the writes of slots belong to the registry's operations, and an upload's writes a status alone. -/
theorem slotsAreWrittenOnlyByRegistryOperations : Obligations.SlotsAreWrittenOnlyByRegistryOperations := by
  intro s t hstep hne
  obtain e | ⟨i, v, hw, e⟩ := step_slots hstep
  · exact absurd e hne
  · cases hw with
    | assign q d hq hop hr => exact .inl (by rw [curOp_of_cur hq, hop]; rfl)
    | upload q _ d hq hop hu hc ha =>
      refine .inr (.inr ⟨?_, fun j => ?_⟩)
      · rw [curOp_of_cur hq, Option.some.injEq, Option.some.injEq]
        exact hop.imp And.left And.left
      · rw [slotAt_of_set e]
        split
        · rename_i hij
          obtain ⟨rfl, -⟩ := hij
          exact ⟨rfl, rfl, rfl⟩
        · exact ⟨rfl, rfl, rfl⟩
    | clear q hq hop => exact .inr (.inl (by rw [curOp_of_cur hq, hop]))

/-- Settles O22: of the moves only `REG_ASSIGN` and a pass write the queue. -/
theorem queueChangesOnlyByAssignAndPass : Obligations.QueueChangesOnlyByAssignAndPass := by
  intro s t hstep hne
  obtain ⟨r, f, -, hm⟩ | henv := step_effect hstep
  · cases hm.queue with
    | same h => exact absurd h hne
    | append q hq hop hmem h => exact ⟨q, hq, .inl ⟨hop, hmem, h⟩⟩
    | remove q hq hop hu i h => exact ⟨q, hq, .inr ⟨hop, hu, i, h⟩⟩
  · exact absurd henv.queue hne

/-- Settles O23: of the frames a move may send only the inquiry needs no connection. -/
theorem onlyTheInquiryIsSentWhileDisconnected : Obligations.OnlyTheInquiryIsSentWhileDisconnected := by
  intro s t hdis hstep hne
  have hno : s.connected ≠ true := by rw [hdis]; decide
  obtain ⟨r, f, -, hm⟩ | henv := step_effect hstep
  · obtain e | ⟨g, hsent, e⟩ := hm.tx
    · exact absurd e hne
    · cases hsent with
      | inquiry hop => exact ⟨hop, _, e, rfl⟩
      | query _ _ hc => exact absurd hc hno
      | save hc => exact absurd hc hno
      | upload _ _ _ hc => exact absurd hc hno
  · exact absurd henv.tx hne

end Sys2Proof.Machine
end

section
/-! The step and the turns to come (R29, R57, R86, R122, R137): what each turn does by whether the engine has a step, and that
whatever turns come, a step that stays enabled is taken at last. -/

namespace Sys2Proof.Machine

/-! ### Which instruction is fetched (R17) -/

section
variable {s : State} {q : Request} {i : Instr}

theorem fetch_of_capture (hrun : s.Running q) (hf : s.frState = .capture) (hd : decodeCapture s.rx = .ok i) :
    fetch s = some i := by
  obtain ⟨heng, hcur⟩ := hrun
  simp only [fetch, heng, hcur, hf, hd, Decoded.toOption]

theorem fetch_of_head (hrun : s.Running q) (hf : s.frState = .idle) (hruns : s.FramerRuns q)
    (hd : decodeHead s.rx = .ok i) : fetch s = some i := by
  obtain ⟨heng, hcur⟩ := hrun
  have hne : s.rx ≠ [] := by
    rintro hnil
    rw [hnil, decodeHead_nil] at hd
    cases hd
  simp only [fetch, heng, hcur, hf]
  rw [if_pos ⟨hruns, hne⟩, hd, Decoded.toOption]

theorem fetch_of_request (hrun : s.Running q) (hf : s.frState = .idle) (hruns : s.FramerRuns q → s.rx = [])
    (hsettle : ¬ (q.op = opNegDetect ∧ s.ngPhase = .settle)) : fetch s = some (decodeRequest q) := by
  obtain ⟨heng, hcur⟩ := hrun
  simp only [fetch, heng, hcur, hf]
  rw [if_neg fun h => h.2 (hruns h.1), if_neg hsettle]

/-- In the settle wait the engine has no step (R86). -/
theorem fetch_of_settle (hrun : s.Running q) (hf : s.frState = .idle) (hop : q.op = opNegDetect)
    (hp : s.ngPhase = .settle) : fetch s = none := by
  obtain ⟨heng, hcur⟩ := hrun
  have hruns : ¬ s.FramerRuns q := by
    rintro (h | ⟨-, h⟩)
    · rw [hop] at h
      exact absurd h (by decide)
    · rw [hp] at h
      cases h
  simp only [fetch, heng, hcur, hf]
  rw [if_neg fun h => hruns h.1, if_pos ⟨hop, hp⟩]

/-- A busy engine has a step, except in a capture with an empty FIFO and in the settle wait (R11, R72, R86). -/
theorem fetch_isSome_iff (hrun : s.Running q) :
    (fetch s).isSome ↔
      (s.frState = .capture ∧ s.rx ≠ []) ∨ (s.frState = .idle ∧ ¬ (q.op = opNegDetect ∧ s.ngPhase = .settle)) := by
  cases hf : s.frState with
  | capture =>
    cases hrx : s.rx with
    | nil => simp [fetch_of_capture_nil hf hrx]
    | cons b rest =>
      obtain ⟨c, -, hd⟩ := decodeCapture_cons b rest
      simp [fetch_of_capture hrun hf (hrx ▸ hd)]
  | idle =>
    by_cases hsettle : q.op = opNegDetect ∧ s.ngPhase = .settle
    · simp [fetch_of_settle hrun hf hsettle.1 hsettle.2, hsettle]
    · have hsome : (fetch s).isSome := by
        by_cases hruns : s.FramerRuns q
        · cases hrx : s.rx with
          | nil => rw [fetch_of_request hrun hf (fun _ => hrx) hsettle]; rfl
          | cons h rest =>
            obtain ⟨c, -, hd⟩ := decodeHead_cons h rest
            rw [fetch_of_head hrun hf hruns (hrx ▸ hd)]
            rfl
        · rw [fetch_of_request hrun hf (fun h => absurd h hruns) hsettle]
          rfl
      simp [hsome, hsettle]

end

/-- A push leaves the engine its step (R29), though the step may be another one. -/
theorem fetch_isSome_push {s : State} (h : (fetch s).isSome) (bs : List Byte) (sch : List Turn) (f : Forever) :
    (fetch { s with rx := s.rx ++ bs, schedule := sch, forever := f }).isSome := by
  obtain ⟨i, hi⟩ := Option.isSome_iff_exists.1 h
  obtain ⟨q, hrun⟩ : ∃ q, s.Running q := running_of_fetch hi
  have hrun' : { s with rx := s.rx ++ bs, schedule := sch, forever := f }.Running q := hrun
  rw [fetch_isSome_iff hrun']
  obtain ⟨hf, hne⟩ | hidle := (fetch_isSome_iff hrun).1 h
  · exact .inl ⟨hf, List.append_ne_nil_of_left_ne_nil hne bs⟩
  · exact .inr hidle

/-! ### A step by the turn that is next -/

section
variable {s : State} {r : List Turn} (hl : s.cfg.Legal)
include hl

theorem step_engine (hs : s.refilled.schedule = .engine :: r) :
    step s = engineStep { s.refilled with schedule := r } :=
  step_turn hl hs

theorem step_rxPush {b : Byte} (hs : s.refilled.schedule = .rxPush b :: r) :
    step s = .next { s.refilled with rx := s.rx ++ [b], schedule := r } := by
  rw [step_turn hl hs, ← refilled_rx s]
  rfl

theorem step_fair (hs : s.refilled.schedule = .fair :: r) :
    step s = defaultMove { s.refilled with schedule := r } :=
  step_turn hl hs

theorem step_request_busy {q : Request} (hs : s.refilled.schedule = .request q :: r) (he : s.eng = .busy) :
    step s = defaultMove s.refilled := by
  have hbusy : ¬ s.refilled.eng = .idle := by rw [refilled_eng, he]; decide
  rw [step_turn hl hs, takeTurn, if_neg hbusy]

theorem step_request_idle {q : Request} (hs : s.refilled.schedule = .request q :: r) (he : s.eng = .idle) :
    step s = .next (State.accept q { s.refilled with schedule := r }) := by
  rw [step_turn hl hs, takeTurn, if_pos (by rw [refilled_eng, he])]

theorem step_settleEnd_of_settle (hs : s.refilled.schedule = .settleEnd :: r) (hp : s.ngPhase = .settle) :
    step s = .next (settleEnd { s.refilled with schedule := r }) := by
  rw [step_turn hl hs, takeTurn, if_pos (by rw [refilled_ngPhase, hp])]

theorem step_settleEnd_of_not_settle (hs : s.refilled.schedule = .settleEnd :: r) (hp : s.ngPhase ≠ .settle) :
    step s = defaultMove s.refilled := by
  rw [step_turn hl hs, takeTurn, if_neg (by rwa [refilled_ngPhase])]

end

/-! ### Where the engine has a step -/

section
variable {s : State} {r : List Turn} {i : Instr} (hl : s.cfg.Legal) (hi : fetch s = some i)
include hi

theorem defaultMove_refilled_of_fetch : defaultMove s.refilled = exec i s.refilled :=
  defaultMove_of_fetch ((fetch_refilled s).trans hi)

theorem fetch_turnTaken : fetch { s.refilled with schedule := r } = some i :=
  (fetch_refilled s).trans hi

include hl

theorem step_engine_of_fetch (hs : s.refilled.schedule = .engine :: r) :
    step s = exec i { s.refilled with schedule := r } := by
  rw [step_engine hl hs, engineStep, fetch_turnTaken hi]

theorem step_untilHold_of_fetch (hs : s.refilled.schedule = .untilHold :: r) : step s = exec i s.refilled := by
  have hfetch : fetch s.refilled = some i := (fetch_refilled s).trans hi
  rw [step_turn hl hs]
  simp only [takeTurn, engineStep, hfetch, Option.isSome_some, if_true]

theorem step_fair_of_fetch (hs : s.refilled.schedule = .fair :: r) :
    step s = exec i { s.refilled with schedule := r } := by
  rw [step_fair hl hs, defaultMove_of_fetch (fetch_turnTaken hi)]

theorem step_default_of_fetch (hs : s.refilled.schedule = []) : step s = exec i s := by
  rw [step_default hl hs, defaultMove_of_fetch hi]

end

/-- Settles O5: in each of the three cases the decoded instruction is the one fetched, and each turn of the engine runs it. -/
theorem stepRunsTheDecodedInstruction : Obligations.StepRunsTheDecodedInstruction := by
  intro s q i r hl hrun hcase
  have hi : fetch s = some i := by
    obtain ⟨hf, hd⟩ | ⟨hf, hruns, hd⟩ | ⟨hf, rfl, htry, hdetect⟩ := hcase
    · exact fetch_of_capture hrun hf hd
    · exact fetch_of_head hrun hf hruns hd
    · refine fetch_of_request hrun hf ?_ ?_
      · rintro (hop | ⟨hop, hp⟩)
        · exact htry hop
        · obtain h | h | ⟨-, hrx⟩ := hdetect hop
          · rw [hp] at h; cases h
          · rw [hp] at h; cases h
          · exact hrx
      · rintro ⟨hop, hp⟩
        obtain h | h | ⟨h, -⟩ := hdetect hop <;> rw [hp] at h <;> cases h
  exact ⟨step_default_of_fetch hl hi, step_engine_of_fetch hl hi, step_fair_of_fetch hl hi,
    step_untilHold_of_fetch hl hi⟩

/-! ### The default move -/

/-- The default move takes no turn and no request (log entry 2). -/
theorem defaultMove_keeps {s t : State} (h : defaultMove s = .next t) :
    t.schedule = s.schedule ∧ (t.cur = s.cur ∨ t.cur = none) := by
  unfold defaultMove at h
  split at h
  · rename_i i hi
    obtain ⟨u, hu, hm⟩ := engineMove_of_fetch hi
    rw [hu] at h
    cases h
    refine ⟨hm.fixed.2.1, ?_⟩
    cases hm.ending with
    | goesOn _ _ hcur => exact .inl hcur
    | ends _ _ _ hcur => exact .inr hcur
  · split at h
    · cases h; exact ⟨rfl, .inl rfl⟩
    · cases h; exact ⟨rfl, .inl rfl⟩

/-- Settles O7: an idle engine takes the request's turn; a busy one makes the default move, which takes none. -/
theorem requestIsTakenOnlyWhenIdle : Obligations.RequestIsTakenOnlyWhenIdle := by
  intro s q r hl hs
  constructor
  · intro he
    rw [step_request_idle hl hs he]
    rfl
  · intro he t ht
    rw [step_request_busy hl hs he] at ht
    obtain ⟨hsch, hcur⟩ := defaultMove_keeps ht
    rw [refilled_cur] at hcur
    exact ⟨hsch, hcur⟩

/-- Settles O8: the push is taken as it is; without it a hold in a capture meets only turns that leave it. -/
theorem rxPushAppendsAndAloneLiftsTheHold : Obligations.RxPushAppendsAndAloneLiftsTheHold := by
  intro s hl
  refine ⟨fun b r hs => step_rxPush hl hs, fun hinv hf hrx hno t ht => ?_⟩
  obtain ⟨-, hmove⟩ := step_cases ht
  cases hmove with
  | engine r i _ _ hi _ =>
    have hnone : fetch { s with schedule := r, forever := s.refilled.forever } = none := fetch_of_capture_nil hf hrx
    rw [hnone] at hi
    cases hi
  | push b r hs => exact absurd hs (hno b r)
  | settle r _ _ => exact ⟨hf, hrx, rfl, rfl, rfl⟩
  | request q r _ he =>
    have hcur := hinv.cur_none he
    obtain hop | ⟨hop, -⟩ := hinv.captureOp hf <;> rw [hcur] at hop <;> cases hop
  | rest r _ => exact ⟨hf, hrx, rfl, rfl, rfl⟩

/-! ### The drain begins with the timer (R86) -/

theorem frReturn_drainBegins {m : Option MidiMessage} {n : Nat} {s : State} (h : (frReturn m n s).ngPhase = .drain) :
    s.ngPhase = .drain := by
  obtain ⟨-, c, v, -, e⟩ | ⟨-, -, e⟩ | ⟨-, -, l, e⟩ | ⟨-, -, e⟩ := frReturn_cases m n s <;> rw [e] at h
  · exact h
  · cases h
  · exact h
  · exact h

theorem frStep_drainBegins {s : State} (h : (frStep s).ngPhase = .drain) : s.ngPhase = .drain := by
  obtain ⟨-, -, e⟩ | ⟨-, -, e⟩ | ⟨-, -, m, e⟩ | ⟨-, -, e⟩ | ⟨-, -, e⟩ | ⟨-, -, e⟩ | ⟨-, -, e⟩ | ⟨-, b, r, -, -, e⟩ :=
    frStep_cases s <;> rw [e] at h
  · exact frReturn_drainBegins h
  · exact frReturn_drainBegins h
  · exact frReturn_drainBegins (s := s.rxDrop 3) h
  · exact frReturn_drainBegins (s := s.rxDrop 1) h
  · exact h
  · exact h
  · exact frReturn_drainBegins (s := { s.rxDrop 1 with frState := .idle, frBuf := [] }) h
  · exact h

/-- No move of the engine begins a drain. -/
theorem EngineMove.drainBegins {s t : State} (h : EngineMove s t) (ht : t.ngPhase = .drain) : s.ngPhase = .drain := by
  cases h with
  | framer _ => exact frStep_drainBegins ht
  | codec | read | illegal => exact ht
  | send =>
    cases ha : s.sinkAnswer with
    | ok => rw [ngSend_ok ha] at ht; cases ht
    | ioError k => rw [ngSend_ioError ha] at ht; rw [← ht]; exact (sinkTaken_ngPhase s).symm
  | scan => rw [ngScan_writes] at ht; cases ht
  | query => rw [cbQuery_writes] at ht; exact ht
  | save => rw [cbSave, cbCommand_writes] at ht; exact ht
  | assign => rw [regAssign_writes] at ht; exact ht
  | uploadOne => rw [regUploadOne_writes] at ht; exact ht
  | uploadAll => rw [regUploadAll_writes] at ht; exact ht
  | clear => rw [regClear_writes] at ht; exact ht

/-- Settles O11: outside the settle phase its turn gives way to the default move, and of all moves only the timer's begins a
drain. -/
theorem settleEndOnlyInTheSettlePhase : Obligations.SettleEndOnlyInTheSettlePhase := by
  intro s
  refine ⟨fun r hl hs hp => ?_, fun r t hs hp ht => ?_, fun t ht hdrain => ?_⟩
  · rw [step_settleEnd_of_settle hl hs hp]
    rfl
  · obtain ⟨hl, -⟩ := step_cases ht
    rw [step_settleEnd_of_not_settle hl hs hp] at ht
    exact (defaultMove_keeps ht).1
  · obtain ⟨-, hmove⟩ := step_cases ht
    cases hmove with
    | engine r i _ _ _ hm => exact .inl (hm.drainBegins hdrain)
    | push b r _ => exact .inl hdrain
    | settle r _ hp => exact .inr ⟨hp, rfl⟩
    | request q r _ _ => exact .inl hdrain
    | rest r _ => exact .inl hdrain

/-! ### Weak fairness (R137) -/

/-- `t` is reached from `s` by steps that do nothing but push bytes and pass over turns. -/
def Pushed (s t : State) : Prop :=
  ∃ n bs sch f, run n s = .next t ∧ t = { s with rx := s.rx ++ bs, schedule := sch, forever := f }

theorem pushed_refl (s : State) : Pushed s s :=
  ⟨0, [], s.schedule, s.forever, rfl, by rw [List.append_nil]⟩

theorem pushed_of_step {s t : State} {bs : List Byte} {sch : List Turn} {f : Forever}
    (hstep : step s = .next { s with rx := s.rx ++ bs, schedule := sch, forever := f })
    (h : Pushed { s with rx := s.rx ++ bs, schedule := sch, forever := f } t) : Pushed s t := by
  obtain ⟨n, bs', sch', f', hrun, ht⟩ := h
  exact ⟨n + 1, bs ++ bs', sch', f', by rw [run_succ hstep, hrun], by rw [ht, List.append_assoc]⟩

/-- In the situation `G` the turn `fair`, and no turn to come, bring `Q` about; any other turn does too, or is taken as a push
of bytes (none for most turns) that keeps the situation. -/
structure Awaits (G Q : State → Prop) : Prop where
  atNone : ∀ s, G s → s.refilled.schedule = [] → Q s
  atFair : ∀ s r, G s → s.refilled.schedule = .fair :: r → Q s
  atTurn : ∀ s x r, G s → s.refilled.schedule = x :: r →
    Q s ∨ ∃ bs, step s = .next { s with rx := s.rx ++ bs, schedule := r, forever := s.refilled.forever } ∧
      G { s with rx := s.rx ++ bs, schedule := r, forever := s.refilled.forever }

/-- An endless block is none, or ends in the turn `fair`. -/
theorem foreverBlock_eq (f : Forever) : foreverBlock f = [] ∨ ∃ l, foreverBlock f = l ++ [.fair] := by
  cases f with
  | rest => exact .inl rfl
  | again ts => exact .inr ⟨ts, rfl⟩
  | free k n => exact .inr ⟨Config.freeTurns k n, rfl⟩

theorem refilled_of_ne_nil {s : State} (h : s.schedule ≠ []) : s.refilled = s := by
  obtain ⟨x, r, hs⟩ := List.exists_cons_of_ne_nil h
  exact refilled_of_cons hs

section
variable {G Q : State → Prop} (h : Awaits G Q)
include h

/-- One turn: what is reached after it is reached from before it. -/
theorem Awaits.turn {s : State} (hG : G s) {x : Turn} {r : List Turn} (hs : s.refilled.schedule = x :: r)
    (hrest : ∀ u, G u → u.schedule = r → ∃ t, Pushed u t ∧ Q t) : ∃ t, Pushed s t ∧ Q t := by
  obtain hQ | ⟨bs, hstep, hG'⟩ := h.atTurn s x r hG hs
  · exact ⟨s, pushed_refl s, hQ⟩
  · obtain ⟨t, ht, hQ⟩ := hrest _ hG' rfl
    exact ⟨t, pushed_of_step hstep ht, hQ⟩

/-- Turns that end in `fair`. -/
theorem Awaits.fairBlock (l : List Turn) : ∀ s, G s → s.refilled.schedule = l ++ [.fair] → ∃ t, Pushed s t ∧ Q t := by
  induction l with
  | nil => exact fun s hG hs => ⟨s, pushed_refl s, h.atFair s [] hG hs⟩
  | cons x l ih =>
    refine fun s hG hs => h.turn hG hs fun u hG' (hu : u.schedule = l ++ [.fair]) => ih u hG' ?_
    rw [refilled_of_ne_nil (by rw [hu]; exact List.concat_ne_nil _ _), hu]

/-- Any turns: after the scheduled ones an endless block comes, or no turn. -/
theorem Awaits.reaches (l : List Turn) : ∀ s, G s → s.schedule = l → ∃ t, Pushed s t ∧ Q t := by
  induction l with
  | nil =>
    intro s hG hs
    have hblock : s.refilled.schedule = foreverBlock s.forever := by rw [refilled_of_empty hs]
    obtain hf | ⟨l, hf⟩ := foreverBlock_eq s.forever
    · exact ⟨s, pushed_refl s, h.atNone s hG (by rw [hblock, hf])⟩
    · exact h.fairBlock l s hG (by rw [hblock, hf])
  | cons x l ih =>
    exact fun s hG hs => h.turn hG (by rw [refilled_of_cons hs, hs]) ih

end

/-! ### The settle wait (R86) -/

/-- The settle wait of the `NEG_DETECT` request `q`. -/
structure SettleWait (q : Request) (s : State) : Prop where
  legal   : s.cfg.Legal
  running : s.Running q
  op      : q.op = opNegDetect
  framer  : s.frState = .idle
  phase   : s.ngPhase = .settle

section
variable {q : Request} {s : State} {r : List Turn} (h : SettleWait q s)
include h

theorem SettleWait.fetch_none : fetch s.refilled = none :=
  (fetch_refilled s).trans (fetch_of_settle h.running h.framer h.op h.phase)

theorem SettleWait.step_engine (hs : s.refilled.schedule = .engine :: r) :
    step s = .next { s.refilled with schedule := r } := by
  have hfetch : fetch { s.refilled with schedule := r } = none := h.fetch_none
  rw [Machine.step_engine h.legal hs, engineStep, hfetch]
  rfl

theorem SettleWait.step_untilHold (hs : s.refilled.schedule = .untilHold :: r) :
    step s = .next { s.refilled with schedule := r } := by
  rw [step_turn h.legal hs, takeTurn, h.fetch_none]
  rfl

/-- The timer moves where no other agent does. -/
theorem SettleWait.defaultMove_refilled : defaultMove s.refilled = .next (settleEnd s.refilled) :=
  defaultMove_of_settle h.fetch_none (by rw [refilled_ngPhase, h.phase])

theorem SettleWait.step_fair (hs : s.refilled.schedule = .fair :: r) :
    step s = .next { s.refilled with ngPhase := .drain, schedule := r } := by
  rw [Machine.step_fair h.legal hs]
  exact defaultMove_of_settle (s := { s.refilled with schedule := r }) h.fetch_none (by rw [← h.phase, ← refilled_ngPhase s])

theorem SettleWait.step_request {p : Request} (hs : s.refilled.schedule = .request p :: r) :
    step s = .next { s.refilled with ngPhase := .drain } := by
  rw [step_request_busy h.legal hs h.running.1, h.defaultMove_refilled]
  rfl

theorem SettleWait.step_settleEnd (hs : s.refilled.schedule = .settleEnd :: r) :
    step s = .next { s.refilled with ngPhase := .drain, schedule := r } := by
  rw [step_settleEnd_of_settle h.legal hs h.phase]
  rfl

theorem SettleWait.step_none (hs : s.refilled.schedule = []) : step s = .next { s with ngPhase := .drain } := by
  have hmove := h.defaultMove_refilled
  rw [refilled_of_nil hs] at hmove
  rw [step_default h.legal hs, hmove]
  rfl

theorem SettleWait.push (bs : List Byte) (sch : List Turn) (f : Forever) :
    SettleWait q { s with rx := s.rx ++ bs, schedule := sch, forever := f } :=
  ⟨h.legal, h.running, h.op, h.framer, h.phase⟩

end

/-- The timer's step, with whatever turns are left to come. -/
def TimerStep (s : State) : Prop :=
  ∃ sch f, step s = .next { s with ngPhase := .drain, schedule := sch, forever := f }

/-- A turn that is taken, and pushes bytes or nothing. -/
theorem refilled_pushed (s : State) (bs : List Byte) (r : List Turn) :
    { s.refilled with rx := s.rx ++ bs, schedule := r } =
      { s with rx := s.rx ++ bs, schedule := r, forever := s.refilled.forever } := by
  conv_lhs => rw [refilled_eq]

theorem refilled_turnTaken (s : State) (r : List Turn) :
    { s.refilled with schedule := r } =
      { s with rx := s.rx ++ [], schedule := r, forever := s.refilled.forever } := by
  rw [List.append_nil]
  conv_lhs => rw [refilled_eq]

theorem timerStep_of_refilled {s : State} {sch : List Turn}
    (h : step s = .next { s.refilled with ngPhase := .drain, schedule := sch }) : TimerStep s := by
  refine ⟨sch, s.refilled.forever, ?_⟩
  rw [h]
  conv_lhs => rw [refilled_eq]

/-- The settle wait awaits the timer. -/
theorem settleWait_awaits (q : Request) : Awaits (SettleWait q) TimerStep where
  atNone s h hs := ⟨s.schedule, s.forever, h.step_none hs⟩
  atFair s r h hs := timerStep_of_refilled (h.step_fair hs)
  atTurn s x r h hs := by
    cases x with
    | engine => exact .inr ⟨[], by rw [h.step_engine hs, refilled_turnTaken], h.push _ _ _⟩
    | untilHold => exact .inr ⟨[], by rw [h.step_untilHold hs, refilled_turnTaken], h.push _ _ _⟩
    | rxPush b => exact .inr ⟨[b], by rw [step_rxPush h.legal hs, refilled_pushed], h.push _ _ _⟩
    | settleEnd => exact .inl (timerStep_of_refilled (h.step_settleEnd hs))
    | request p => exact .inl (timerStep_of_refilled (h.step_request hs))
    | fair => exact .inl (timerStep_of_refilled (h.step_fair hs))

/-- Settles O10: each kind of turn in the wait, and its end by weak fairness. -/
theorem settleWaitEndsByTheTimer : Obligations.SettleWaitEndsByTheTimer := by
  intro s q r hl hrun hop hf hp
  have h : SettleWait q s := ⟨hl, hrun, hop, hf, hp⟩
  refine ⟨h.step_engine, h.step_untilHold, fun b => step_rxPush hl, h.step_settleEnd, h.step_fair, fun p => h.step_request,
    h.step_none, ?_⟩
  obtain ⟨_, ⟨n, bs, sch, f, hn, rfl⟩, sch', f', hstep⟩ := (settleWait_awaits q).reaches s.schedule s h rfl
  exact ⟨n, bs, sch, f, sch', f', hn, hstep⟩

/-! ### An enabled engine step is taken at last (R122, R137) -/

/-- The engine's step, with whatever turns are left to come. -/
def EngineStep (s : State) : Prop :=
  ∃ j sch f, fetch s = some j ∧ step s = exec j { s with schedule := sch, forever := f }

/-- Outside its wait the settle timer has no step: with one of the engine's, the phase is not `NG_SETTLE`. -/
theorem State.Inv.not_settle {s : State} (h : s.Inv) {i : Instr} (hi : fetch s = some i) : s.ngPhase ≠ .settle := by
  intro hp
  obtain ⟨q, hrun⟩ : ∃ q, s.Running q := running_of_fetch hi
  have hop := h.phaseOp (by rw [hp]; nofun)
  have hf := h.frState_idle (by rw [hop]; decide) (by rw [hp]; nofun)
  have hq : q.op = opNegDetect := by rw [curOp_of_cur hrun.2] at hop; exact Option.some.inj hop
  rw [fetch_of_settle hrun hf hq hp] at hi
  cases hi

theorem engineStep_of_refilled {s : State} {i : Instr} (hi : fetch s = some i) {sch : List Turn}
    (h : step s = exec i { s.refilled with schedule := sch }) : EngineStep s := by
  refine ⟨i, sch, s.refilled.forever, hi, ?_⟩
  rw [h]
  conv_lhs => rw [refilled_eq]

/-- An engine with a step awaits it. -/
theorem fetch_awaits : Awaits (fun s => s.Inv ∧ (fetch s).isSome) EngineStep where
  atNone s h hs := by
    obtain ⟨i, hi⟩ := Option.isSome_iff_exists.1 h.2
    exact ⟨i, s.schedule, s.forever, hi, step_default_of_fetch h.1.legal hi hs⟩
  atFair s r h hs := by
    obtain ⟨i, hi⟩ := Option.isSome_iff_exists.1 h.2
    exact engineStep_of_refilled hi (step_fair_of_fetch h.1.legal hi hs)
  atTurn s x r h hs := by
    obtain ⟨hinv, hsome⟩ := h
    obtain ⟨i, hi⟩ := Option.isSome_iff_exists.1 hsome
    have hdefault := defaultMove_refilled_of_fetch hi
    cases x with
    | engine => exact .inl (engineStep_of_refilled hi (step_engine_of_fetch hinv.legal hi hs))
    | untilHold => exact .inl (engineStep_of_refilled hi (step_untilHold_of_fetch hinv.legal hi hs))
    | rxPush b =>
      exact .inr ⟨[b], by rw [step_rxPush hinv.legal hs, refilled_pushed], hinv.outside _ _ _ _ _ _ _,
        fetch_isSome_push hsome _ _ _⟩
    | settleEnd =>
      refine .inl (engineStep_of_refilled (sch := s.refilled.schedule) hi ?_)
      rw [step_settleEnd_of_not_settle hinv.legal hs (hinv.not_settle hi), hdefault]
    | request p =>
      obtain ⟨q, hbusy, -⟩ := running_of_fetch hi
      refine .inl (engineStep_of_refilled (sch := s.refilled.schedule) hi ?_)
      rw [step_request_busy hinv.legal hs hbusy, hdefault]
    | fair => exact .inl (engineStep_of_refilled hi (step_fair_of_fetch hinv.legal hi hs))

/-- Settles O12: a legal configuration steps, the two others are refused in order, and an enabled engine step is awaited. -/
theorem everyLegalStateHasANextState : Obligations.EveryLegalStateHasANextState := by
  intro s
  refine ⟨step_next, fun hwf => if_pos hwf, fun hwf hhard => ?_, fun i hinv hi => ?_⟩
  · rw [step, machineStep, if_neg (not_not.2 hwf), if_pos hhard]
  · obtain ⟨_, ⟨n, bs, sch, f, hn, rfl⟩, j, sch', f', hj, hstep⟩ :=
      fetch_awaits.reaches s.schedule s ⟨hinv, Option.isSome_iff_exists.2 ⟨i, hi⟩⟩ rfl
    exact ⟨n, bs, sch, f, sch', f', j, hn, hj, hstep⟩

end Sys2Proof.Machine
end

section
/-! Runs of the framer and the negotiator: a capture without `F7` (R74), a whole SysEx frame (R71 to R73), a drain and its scan
(R87, R88), and a drain that is fed for ever (R130). -/

namespace Sys2Proof.Machine

/-! ### Runs -/

/-- The first step of a run. -/
theorem run_succ_next {n : Nat} {s t : State} (h : run (n + 1) s = .next t) :
    ∃ u, step s = .next u ∧ run n u = .next t := by
  cases hs : step s with
  | next u => exact ⟨u, rfl, by rwa [run_succ hs] at h⟩
  | fault r => cases r
  | refused r =>
    have hcore : core.step s = .refused r := hs
    simp only [run, Host.Core.run, hcore] at h
    cases h

/-- With no turn to come the machine takes the engine's step (log entry 2). -/
theorem step_alone {s : State} (ha : s.Alone) {i : Instr} (hi : fetch s = some i) : step s = exec i s := by
  obtain ⟨hl, hs, hf⟩ := ha
  exact step_default_of_fetch hl hi (by rw [refilled_of_rest hf, hs])

/-! ### A capture without F7 (R74) -/

/-- A capture whose end is neither in the FIFO nor to come. -/
structure Unterminated (s : State) : Prop where
  inv     : s.Inv
  capture : s.frState = .capture
  rx      : 0xF7 ∉ s.rx
  never   : s.NeverTurns (.rxPush 0xF7)

theorem State.Inv.busy_of_capture {s : State} (h : s.Inv) (hf : s.frState = .capture) : s.eng = .busy := by
  cases he : s.eng with
  | busy => rfl
  | idle =>
    have hcur := h.cur_none he
    obtain hop | ⟨hop, -⟩ := h.captureOp hf <;> rw [hcur] at hop <;> cases hop

/-- A turn that never comes is not among those left after a step. -/
theorem neverTurns_left {s : State} {x : Turn} {r : List Turn} (h : s.NeverTurns x) (hr : LeftOf s.refilled.schedule r) :
    x ∉ r ∧ s.refilled.forever.Never x := by
  obtain ⟨hsch, hfor⟩ := neverTurns_refilled h
  refine ⟨fun hmem => hsch ?_, hfor⟩
  obtain rfl | ⟨y, hy⟩ := hr
  · exact hmem
  · rw [hy]
    exact List.mem_cons_of_mem y hmem

/-- The engine's move in such a capture stores a byte. -/
theorem engineMove_of_capture {s t : State} (hm : EngineMove s t) (hf : s.frState = .capture) (hno : 0xF7 ∉ s.rx)
    (hne : s.rx ≠ []) : ∃ b rest, s.rx = b :: rest ∧ t = { s with rx := rest, frBuf := s.frBuf ++ [b] } := by
  cases hm with
  | framer _ =>
    obtain ⟨b, rest, hrx⟩ := List.exists_cons_of_ne_nil hne
    have hb : b ≠ 0xF7 := by
      rintro rfl
      exact hno (by rw [hrx]; exact List.mem_cons_self)
    refine ⟨b, rest, hrx, ?_⟩
    rw [← frStore_of_cons hrx]
    simp only [frStep, hf, hrx, if_neg hb]
  | codec _ _ hidle | send hidle | scan hidle | query _ hidle | save hidle | assign _ hidle | uploadOne _ hidle
  | uploadAll hidle | clear _ hidle | read _ _ hidle | illegal _ hidle =>
    rw [hf] at hidle
    cases hidle

/-- Every step of such a capture stores a byte or leaves the framer, and it is such a capture again. -/
theorem Unterminated.step {s t : State} (h : Unterminated s) (hstep : step s = .next t) :
    Unterminated t ∧ t.cur = s.cur ∧ t.resp = s.resp ∧ s.frBuf <+: t.frBuf := by
  have hinv : t.Inv := everyStepKeepsTheInvariant s t h.inv hstep
  obtain ⟨-, hmove⟩ := step_cases hstep
  cases hmove with
  | engine r i _ hr hi hm =>
    have hne : s.rx ≠ [] := fun hnil => by
      have hnone : fetch { s with schedule := r, forever := s.refilled.forever } = none :=
        fetch_of_capture_nil h.capture hnil
      rw [hnone] at hi
      cases hi
    obtain ⟨b, rest, hrx, rfl⟩ := engineMove_of_capture hm h.capture h.rx hne
    have hrest : 0xF7 ∉ rest := fun hmem => h.rx (by
      rw [show s.rx = b :: rest from hrx]
      exact List.mem_cons_of_mem b hmem)
    exact ⟨⟨hinv, h.capture, hrest, neverTurns_left h.never hr⟩, rfl, rfl, List.prefix_append _ _⟩
  | push b r hs =>
    have hb : (0xF7 : Byte) ≠ b := by
      rintro rfl
      exact (neverTurns_refilled h.never).1 (by rw [hs]; exact List.mem_cons_self)
    have hrx : 0xF7 ∉ s.rx ++ [b] := fun hmem =>
      (List.mem_append.1 hmem).elim h.rx fun hc => hb (List.mem_singleton.1 hc)
    exact ⟨⟨hinv, h.capture, hrx, neverTurns_left h.never (.inr ⟨_, hs⟩)⟩, rfl, rfl, List.prefix_refl _⟩
  | settle r hr _ => exact ⟨⟨hinv, h.capture, h.rx, neverTurns_left h.never hr⟩, rfl, rfl, List.prefix_refl _⟩
  | request q r _ he =>
    rw [h.inv.busy_of_capture h.capture] at he
    cases he
  | rest r hr => exact ⟨⟨hinv, h.capture, h.rx, neverTurns_left h.never hr⟩, rfl, rfl, List.prefix_refl _⟩

theorem Unterminated.run {n : Nat} {s t : State} (h : Unterminated s) (hrun : run n s = .next t) :
    Unterminated t ∧ t.cur = s.cur ∧ t.resp = s.resp ∧ s.frBuf <+: t.frBuf := by
  induction n generalizing s with
  | zero =>
    cases hrun
    exact ⟨h, rfl, rfl, List.prefix_refl _⟩
  | succ n ih =>
    obtain ⟨u, hstep, hrest⟩ := run_succ_next hrun
    obtain ⟨hu, hcur, hresp, hbuf⟩ := h.step hstep
    obtain ⟨ht, hcur', hresp', hbuf'⟩ := ih hu hrest
    exact ⟨ht, hcur'.trans hcur, hresp'.trans hresp, hbuf.trans hbuf'⟩

/-- Settles O9: by induction on the steps, the capture stays unterminated and only its buffer grows. -/
theorem unterminatedSysExNeverFinishes : Obligations.UnterminatedSysExNeverFinishes := by
  intro s n t hinv hf hrx hnever hrun
  obtain ⟨ht, hcur, hresp, hbuf⟩ := Unterminated.run ⟨hinv, hf, hrx, hnever⟩ hrun
  exact ⟨ht.capture, ht.inv.busy_of_capture ht.capture, hcur, hresp, hbuf⟩

/-! ### The framer at work, with no turn to come -/

/-- An operation in which the framer runs (R62, R87), alone. -/
structure Framing (q : Request) (s : State) : Prop where
  alone   : s.Alone
  running : s.Running q
  runs    : s.FramerRuns q

section
variable {q : Request} {s : State} {b : Byte} {rest : List Byte} (h : Framing q s)
include h

/-- The framer's own fields do not matter for who runs it. -/
theorem Framing.withFramer (rx buf : List Byte) (f : FrState) :
    Framing q { s with rx := rx, frBuf := buf, frState := f } :=
  ⟨h.alone, h.running, h.runs⟩

theorem Framing.step_head (hf : s.frState = .idle) (hrx : s.rx = b :: rest) : step s = .next (frStep s) := by
  obtain ⟨c, -, hd⟩ := decodeHead_cons b rest
  rw [← hrx] at hd
  rw [step_alone h.alone (fetch_of_head h.running hf h.runs hd), exec_decodeHead hf hd]

theorem Framing.step_capture (hf : s.frState = .capture) (hrx : s.rx = b :: rest) : step s = .next (frStep s) := by
  obtain ⟨c, -, hd⟩ := decodeCapture_cons b rest
  rw [← hrx] at hd
  rw [step_alone h.alone (fetch_of_capture h.running hf hd), exec_decodeCapture hf hd]

/-- `F0` begins a capture (R71). -/
theorem Framing.step_start (hf : s.frState = .idle) (hrx : s.rx = 0xF0 :: rest) :
    step s = .next { s with rx := rest, frState := .capture, frBuf := [] } := by
  rw [h.step_head hf hrx, ← frStart_of_cons hrx]
  simp only [frStep, hf, hrx, if_true]

/-- A byte but `F7` is stored (R72). -/
theorem Framing.step_store (hf : s.frState = .capture) (hrx : s.rx = b :: rest) (hb : b ≠ 0xF7) :
    step s = .next { s with rx := rest, frBuf := s.frBuf ++ [b] } := by
  rw [h.step_capture hf hrx, ← frStore_of_cons hrx]
  simp only [frStep, hf, hrx, if_neg hb]

/-- `F7` ends the frame (R73). -/
theorem Framing.step_end (hf : s.frState = .capture) (hrx : s.rx = 0xF7 :: rest) : step s = .next (frEnd s) := by
  rw [h.step_capture hf hrx]
  simp only [frStep, hf, hrx, if_true]

end

/-- The bytes of a payload are stored one by one. -/
theorem run_capture {q : Request} (p : List Byte) : ∀ {s : State} {rest : List Byte}, Framing q s → s.frState = .capture →
    s.rx = p ++ rest → 0xF7 ∉ p → run p.length s = .next { s with rx := rest, frBuf := s.frBuf ++ p } := by
  induction p with
  | nil =>
    intro s rest _ _ hrx _
    rw [List.nil_append] at hrx
    rw [← hrx, List.append_nil]
    rfl
  | cons b p ih =>
    intro s rest h hf hrx hno
    have hb : b ≠ 0xF7 := fun hb => hno (by rw [hb]; exact List.mem_cons_self)
    have hp : 0xF7 ∉ p := fun hmem => hno (List.mem_cons_of_mem b hmem)
    have htail := ih (h.withFramer (p ++ rest) (s.frBuf ++ [b]) s.frState) hf rfl hp
    have hstep : step s = .next { s with rx := p ++ rest, frBuf := s.frBuf ++ [b] } := h.step_store hf hrx hb
    rw [List.length_cons, run_succ hstep, htail, List.append_assoc]
    rfl

/-- A whole frame: the start, the payload, the end (R71 to R73). -/
theorem run_frame {q : Request} {s : State} {p rest : List Byte} (h : Framing q s) (hf : s.frState = .idle)
    (hrx : s.rx = 0xF0 :: p ++ 0xF7 :: rest) (hno : 0xF7 ∉ p) :
    run (2 + p.length) s = .next (frEnd { s with rx := 0xF7 :: rest, frState := .capture, frBuf := p }) := by
  have hstart : step s = .next { s with rx := p ++ 0xF7 :: rest, frState := .capture, frBuf := [] } :=
    h.step_start hf hrx
  have hpayload := run_capture p (h.withFramer (p ++ 0xF7 :: rest) [] .capture) rfl rfl hno
  have hend := (h.withFramer (0xF7 :: rest) p .capture).step_end rfl rfl
  rw [show 2 + p.length = (p.length + 1) + 1 from Nat.add_comm 2 _, run_succ hstart, run_add hpayload, List.nil_append,
    run_succ hend, run_zero]

/-- A framer that was idle with an empty buffer is left so. -/
theorem withFramerIdle_eq {s : State} (hf : s.frState = .idle) (hbuf : s.frBuf = []) (rx : List Byte) :
    { s with rx := rx, frState := .idle, frBuf := [] } = { s with rx := rx } := by
  rw [← hf, ← hbuf]

/-- Settles O33: the run of one frame, whose end `FR_TRY` answers. -/
theorem wholeSysExFrameIsDelivered : Obligations.WholeSysExFrameIsDelivered := by
  intro s q p rest ha hrun hop hf hbuf hrx hno
  have hcur : s.curOp = some opFrTry := by rw [curOp_of_cur hrun.2, hop]; rfl
  rw [run_frame ⟨ha, hrun, .inl hop⟩ hf hrx hno,
    frEnd_host (s := { s with rx := 0xF7 :: rest, frState := .capture, frBuf := p }) rfl hcur]
  exact congrArg (fun u : State => Host.Outcome.next (u.finish .ok (.message (.sysEx p)))) (withFramerIdle_eq hf hbuf rest)

/-! ### The end of a drain (R87, R88) -/

/-- A `NEG_DETECT` alone. -/
structure Detecting (q : Request) (s : State) : Prop where
  alone   : s.Alone
  running : s.Running q
  op      : q.op = opNegDetect
  framer  : s.frState = .idle

section
variable {q : Request} {s : State} (h : Detecting q s)
include h

theorem Detecting.curOp : s.curOp = some opNegDetect := by
  rw [curOp_of_cur h.running.2, h.op]

theorem Detecting.framing (hp : s.ngPhase = .drain) : Framing q s :=
  ⟨h.alone, h.running, .inr ⟨h.op, hp⟩⟩

theorem Detecting.withDrain (rx : List Byte) (p : NgPhase) (l : List (List Byte)) :
    Detecting q { s with rx := rx, ngPhase := p, ngCollected := l } :=
  ⟨h.alone, h.running, h.op, h.framer⟩

/-- With an empty FIFO the drain ends (R87). -/
theorem Detecting.step_nil (hp : s.ngPhase = .drain) (hrx : s.rx = []) :
    step s = .next { s with ngPhase := .scan } := by
  have hi : fetch s = some (decodeRequest q) :=
    fetch_of_request h.running h.framer (fun _ => hrx) (fun hc => by rw [hp] at hc; cases hc.2)
  rw [step_alone h.alone hi, decodeRequest_negDetect h.op, exec_negDetect_of_drain hp, frStep_of_nil h.framer hrx,
    frNothing_drain h.curOp]

/-- The scan is one step (R88). -/
theorem Detecting.step_scan (hp : s.ngPhase = .scan) : step s = .next (ngScan s) := by
  have hruns : ¬ s.FramerRuns q := by
    rintro (hc | ⟨-, hc⟩)
    · rw [h.op] at hc
      exact absurd hc (by decide)
    · rw [hp] at hc
      cases hc
  have hi : fetch s = some (decodeRequest q) :=
    fetch_of_request h.running h.framer (fun hc => absurd hc hruns) (fun hc => by rw [hp] at hc; cases hc.2)
  rw [step_alone h.alone hi, decodeRequest_negDetect h.op, exec_negDetect_of_scan hp]

theorem Detecting.run_nil (hp : s.ngPhase = .drain) (hrx : s.rx = []) :
    run 2 s = .next (ngScan { s with ngPhase := .scan }) := by
  have hscan := (h.withDrain s.rx .scan s.ngCollected).step_scan rfl
  rw [run_succ (h.step_nil hp hrx), run_succ hscan, run_zero]

/-- A drain of one frame collects its payload and scans it. -/
theorem Detecting.run_frame (hp : s.ngPhase = .drain) (hbuf : s.frBuf = []) (hcol : s.ngCollected = []) {p : List Byte}
    (hrx : s.rx = 0xF0 :: p ++ [0xF7]) (hno : 0xF7 ∉ p) :
    run (p.length + 4) s = .next (ngScan { s with rx := [], ngPhase := .scan, ngCollected := [p] }) := by
  have hframe : run (2 + p.length) s = .next { s with rx := [], ngCollected := s.ngCollected ++ [p] } := by
    rw [Machine.run_frame (h.framing hp) h.framer hrx hno,
      frEnd_drain (s := { s with rx := [0xF7], frState := .capture, frBuf := p }) rfl h.curOp]
    exact congrArg (fun u : State => Host.Outcome.next { u with ngCollected := s.ngCollected ++ [p] })
      (withFramerIdle_eq h.framer hbuf [])
  rw [hcol, List.nil_append] at hframe
  rw [show p.length + 4 = 2 + p.length + 2 by omega, run_add hframe,
    (h.withDrain [] s.ngPhase [p]).run_nil hp rfl]

end

/-- Settles O44: the drain of one frame leaves its payload alone to the scan, which compares its first three bytes. -/
theorem detectionFollowsTheFirstThreeBytes : Obligations.DetectionFollowsTheFirstThreeBytes := by
  intro s q p ha hrun hop hf hbuf hp hcol hrx hno
  have h : Detecting q s := ⟨ha, hrun, hop, hf⟩
  have hmfr : s.cfg.mfrId.length = 3 := ha.1.1.2.1
  rw [h.run_frame hp hbuf hcol hrx hno]
  constructor
  · intro hmatch
    have hlen : 3 ≤ p.length := by
      rw [← hmatch, List.length_take] at hmfr
      omega
    have hfound : ∃ x ∈ [p], PayloadMatches s.cfg x := ⟨p, List.mem_singleton.2 rfl, hlen, hmatch⟩
    rw [ngScan_of_match (s := { s with rx := [], ngPhase := .scan, ngCollected := [p] }) hfound, hcol]
    rfl
  · intro hmiss
    have hnone : ∀ x ∈ [p], ¬ PayloadMatches s.cfg x := by
      intro x hx hc
      rw [List.mem_singleton.1 hx] at hc
      exact hmiss hc.2
    rw [ngScan_of_miss (s := { s with rx := [], ngPhase := .scan, ngCollected := [p] }) hnone, missConnected_eq, hcol]
    rfl

/-! ### A drain of dropped bytes, and one that is fed (R130) -/

/-- A dropped byte leaves the drain as it is (R70). -/
theorem Detecting.step_dropped {q : Request} {s : State} (h : Detecting q s) (hp : s.ngPhase = .drain) {b : Byte}
    {rest : List Byte} (hrx : s.rx = b :: rest) (hb : DroppedByte b) : step s = .next { s with rx := rest } := by
  rw [(h.framing hp).step_head h.framer hrx, frStep_of_dropped h.framer hrx hb, frDrop_drain hrx h.curOp]

theorem run_dropped {q : Request} (rx : List Byte) : ∀ {s : State}, Detecting q s → s.ngPhase = .drain → s.rx = rx →
    (∀ b ∈ rx, DroppedByte b) → run rx.length s = .next { s with rx := [] } := by
  induction rx with
  | nil =>
    intro s _ _ hrx _
    have hs : { s with rx := [] } = s := by rw [← hrx]
    rw [hs]
    rfl
  | cons b rx ih =>
    intro s h hp hrx hdropped
    have hstep := h.step_dropped hp hrx (hdropped b List.mem_cons_self)
    have hrest := ih (h.withDrain rx s.ngPhase s.ngCollected) hp rfl fun c hc => hdropped c (List.mem_cons_of_mem b hc)
    rw [List.length_cons, run_succ hstep, hrest]

/-- The scan answers once and ends the operation, whatever it found (R88). -/
theorem ngScan_resp (s : State) : ∃ c, (ngScan s).resp = s.resp ++ [{ code := c, value := .none }] := by
  unfold ngScan
  split
  · exact ⟨.ok, rfl⟩
  · exact ⟨.notFound, by rw [finish_resp, ngReset_resp, missConnected_resp]⟩

/-- The drain of `q` in a weakly fair run that pushes the bytes `bs` before each of its steps: what is left of the block, and
a byte for the next `fair` turn. -/
structure Fed (q : Request) (bs : List Byte) (s : State) : Prop where
  legal   : s.cfg.Legal
  running : s.Running q
  op      : q.op = opNegDetect
  framer  : s.frState = .idle
  phase   : s.ngPhase = .drain
  forever : s.forever = .again (bs.map .rxPush)
  rx      : ∀ b ∈ s.rx, DroppedByte b
  block   : s.schedule = [] ∨
    ∃ l : List Byte, s.schedule = l.map .rxPush ++ [.fair] ∧ (∀ b ∈ l, DroppedByte b) ∧ (l = [] → s.rx ≠ [])

section
variable {q : Request} {bs : List Byte} {s : State} (h : Fed q bs s)
include h

/-- A push of the block. -/
theorem Fed.push {b : Byte} {l : List Byte} (hs : s.refilled.schedule = .rxPush b :: (l.map .rxPush ++ [.fair]))
    (hfor : s.refilled.forever = s.forever) (hb : DroppedByte b) (hl : ∀ c ∈ l, DroppedByte c) :
    ∃ t, step s = .next t ∧ Fed q bs t ∧ t.resp = s.resp := by
  refine ⟨_, step_rxPush h.legal hs, ⟨?_, ?_, h.op, ?_, ?_, hfor.trans h.forever, fun c hc => ?_, .inr ⟨l, rfl, hl, ?_⟩⟩,
    refilled_resp s⟩
  · rw [refilled_cfg]; exact h.legal
  · exact ⟨(refilled_eng s).trans h.running.1, (refilled_cur s).trans h.running.2⟩
  · exact (refilled_frState s).trans h.framer
  · exact (refilled_ngPhase s).trans h.phase
  · obtain hc | hc := List.mem_append.1 hc
    · exact h.rx c hc
    · rw [List.mem_singleton.1 hc]
      exact hb
  · exact fun _ => List.concat_ne_nil _ _

/-- The `fair` turn of the block: the drain removes one byte. -/
theorem Fed.fair (hs : s.schedule = [.fair]) (hne : s.rx ≠ []) :
    ∃ t, step s = .next t ∧ Fed q bs t ∧ t.resp = s.resp := by
  obtain ⟨b, rest, hrx⟩ := List.exists_cons_of_ne_nil hne
  have hb : DroppedByte b := h.rx b (by rw [hrx]; exact List.mem_cons_self)
  have hop : s.curOp = some opNegDetect := by rw [curOp_of_cur h.running.2, h.op]
  obtain ⟨i, hd, hdrops⟩ := decodeHead_of_dropped hb rest
  have hi : fetch s = some i := fetch_of_head h.running h.framer (.inr ⟨h.op, h.phase⟩) (by rw [hrx, hd])
  have hrefilled : s.refilled = s := refilled_of_cons hs
  have hstep : step s = .next { s with rx := rest, schedule := [] } := by
    rw [step_fair_of_fetch h.legal hi (by rw [hrefilled, hs]), hrefilled, exec_of_drops hdrops,
      frDrop_drain (s := { s with schedule := [] }) hrx hop]
  exact ⟨_, hstep, ⟨h.legal, h.running, h.op, h.framer, h.phase, h.forever,
    fun c hc => h.rx c (by rw [hrx]; exact List.mem_cons_of_mem b hc), .inl rfl⟩, rfl⟩

theorem Fed.step (hne : bs ≠ []) (hbs : ∀ b ∈ bs, DroppedByte b) :
    ∃ t, step s = .next t ∧ Fed q bs t ∧ t.resp = s.resp := by
  obtain hs | ⟨l, hs, hl, hrx⟩ := h.block
  · obtain ⟨b, l, rfl⟩ := List.exists_cons_of_ne_nil hne
    have hrefilled := refilled_of_empty hs
    rw [h.forever] at hrefilled
    refine h.push (b := b) (l := l) (by rw [hrefilled]; rfl) (by rw [hrefilled, h.forever]; rfl)
      (hbs b List.mem_cons_self) fun c hc => hbs c (List.mem_cons_of_mem b hc)
  · cases l with
    | nil => exact h.fair hs (hrx rfl)
    | cons b l =>
      have hrefilled : s.refilled = s := refilled_of_cons hs
      exact h.push (by rw [hrefilled, hs]; rfl) (by rw [hrefilled]) (hl b List.mem_cons_self)
        fun c hc => hl c (List.mem_cons_of_mem b hc)

end

theorem Fed.run {q : Request} {bs : List Byte} (hne : bs ≠ []) (hbs : ∀ b ∈ bs, DroppedByte b) (n : Nat) :
    ∀ {s : State}, Fed q bs s → ∃ t, run n s = .next t ∧ Fed q bs t ∧ t.resp = s.resp := by
  induction n with
  | zero => exact fun {s} h => ⟨s, rfl, h, rfl⟩
  | succ n ih =>
    intro s h
    obtain ⟨u, hstep, hu, hresp⟩ := h.step hne hbs
    obtain ⟨t, hrun, ht, hresp'⟩ := ih hu
    exact ⟨t, by rw [run_succ hstep, hrun], ht, hresp'.trans hresp⟩

/-- Settles O60: with the feed every block leaves the drain a byte more than its step removes; without it the drain empties
the FIFO and the scan answers. -/
theorem aDrainCanBeFedForEver : Obligations.ADrainCanBeFedForEver := by
  intro s q bs hl hrun hop hf hp hs hne hdropped
  have hrx : ∀ b ∈ s.rx, DroppedByte b := fun b hb => hdropped b (List.mem_append_left _ hb)
  have hbs : ∀ b ∈ bs, DroppedByte b := fun b hb => hdropped b (List.mem_append_right _ hb)
  constructor
  · intro hfor n
    obtain ⟨t, ht, hfed, hresp⟩ := Fed.run hne hbs n ⟨hl, hrun, hop, hf, hp, hfor, hrx, .inl hs⟩
    exact ⟨t, ht, hfed.running.1, hfed.running.2, hfed.phase, hresp, hfed.forever.trans hfor.symm⟩
  · have h : Detecting q { s with forever := .rest } := ⟨⟨hl, hs, rfl⟩, hrun, hop, hf⟩
    have hdrop := run_dropped s.rx h hp rfl hrx
    have hend := (h.withDrain [] s.ngPhase s.ngCollected).run_nil hp rfl
    obtain ⟨c, hresp⟩ := ngScan_resp { s with rx := [], ngPhase := .scan, forever := .rest }
    refine ⟨_, c, by rw [run_add hdrop, hend], ?_, ?_, ?_, hresp⟩ <;> rw [ngScan_writes]

end Sys2Proof.Machine
end

section
/-! The pass over the upload queue (44_registry_queue.md, R103, R109; 70_reset_and_hazards.md, R131): what one entry keeps, and
the whole run. -/

namespace Sys2Proof.Machine

/-! ### What a pass keeps -/

/-- What a pass over the entries `l` keeps: of a slot all but the status, which may become `Uploaded` for an entry; while not
connected everything sent and every slot; the session and the FIFO. -/
structure PassKeeps (l : List Nat) (s t : State) : Prop where
  slot      : ∀ i, (t.slotAt i).name = (s.slotAt i).name ∧ (t.slotAt i).data = (s.slotAt i).data ∧
    (t.slotAt i).size = (s.slotAt i).size ∧
    ((t.slotAt i).status = (s.slotAt i).status ∨ ((t.slotAt i).status = .uploaded ∧ i ∈ l))
  offline   : s.connected = false → t.tx = s.tx ∧ t.slots = s.slots
  txLength  : t.tx.length ≤ s.tx.length + l.length
  resp      : t.resp = s.resp
  connected : t.connected = s.connected
  matched   : t.matched = s.matched
  rx        : t.rx = s.rx

theorem passKeeps_refl (s : State) : PassKeeps [] s s :=
  ⟨fun _ => ⟨rfl, rfl, rfl, .inl rfl⟩, fun _ => ⟨rfl, rfl⟩, le_rfl, rfl, rfl, rfl, rfl⟩

theorem PassKeeps.trans {l m : List Nat} {s u t : State} (h : PassKeeps l s u) (h' : PassKeeps m u t) :
    PassKeeps (l ++ m) s t where
  slot i := by
    obtain ⟨hname, hdata, hsize, hstatus⟩ := h.slot i
    obtain ⟨hname', hdata', hsize', hstatus'⟩ := h'.slot i
    refine ⟨hname'.trans hname, hdata'.trans hdata, hsize'.trans hsize, ?_⟩
    obtain hstatus' | ⟨hup, hmem⟩ := hstatus'
    · rw [hstatus']
      exact hstatus.imp_right fun ⟨hup, hmem⟩ => ⟨hup, List.mem_append_left m hmem⟩
    · exact .inr ⟨hup, List.mem_append_right l hmem⟩
  offline hc := by
    obtain ⟨htx, hslots⟩ := h.offline hc
    obtain ⟨htx', hslots'⟩ := h'.offline (h.connected.trans hc)
    exact ⟨htx'.trans htx, hslots'.trans hslots⟩
  txLength := by
    have hlen := h.txLength
    have hlen' := h'.txLength
    rw [List.length_append]
    omega
  resp := h'.resp.trans h.resp
  connected := h'.connected.trans h.connected
  matched := h'.matched.trans h.matched
  rx := h'.rx.trans h.rx

/-- The dispatch of one entry (R101). -/
theorem dispatch_keeps (i : Nat) (s : State) : PassKeeps [i] s (dispatch i s).2 where
  slot j := by
    obtain e | ⟨-, -, -, e⟩ := dispatch_slots i s
    · rw [slotAt_congr e]
      exact ⟨rfl, rfl, rfl, .inl rfl⟩
    · rw [slotAt_of_set e]
      split
      · rename_i hij
        obtain ⟨rfl, -⟩ := hij
        exact ⟨rfl, rfl, rfl, .inr ⟨rfl, List.mem_singleton.2 rfl⟩⟩
      · exact ⟨rfl, rfl, rfl, .inl rfl⟩
  offline hc := by
    have hno : s.connected ≠ true := by rw [hc]; decide
    refine ⟨?_, ?_⟩
    · obtain e | ⟨hon, -⟩ := dispatch_tx i s
      · exact e
      · exact absurd hon hno
    · obtain e | ⟨hon, -⟩ := dispatch_slots i s
      · exact e
      · exact absurd hon hno
  txLength := by
    obtain e | ⟨-, d, e⟩ := dispatch_tx i s <;> rw [e]
    · exact Nat.le_add_right _ _
    · rw [List.length_append]
      rfl
  resp := dispatch_resp i s
  connected := by rw [dispatch_writes]
  matched := by rw [dispatch_writes]
  rx := by rw [dispatch_writes]

/-! ### The run of a pass -/

/-- A `REG_UPLOAD_ALL` alone. -/
structure Passing (q : Request) (s : State) : Prop where
  alone   : s.Alone
  running : s.Running q
  op      : q.op = opRegUploadAll
  framer  : s.frState = .idle

section
variable {q : Request} {s : State} (h : Passing q s)
include h

/-- Each step of a pass is a step of its operation (R103). -/
theorem Passing.step : step s = exec .regUploadAll s := by
  have hruns : ¬ s.FramerRuns q := by
    rintro (hc | ⟨hc, -⟩) <;> rw [h.op] at hc <;> exact absurd hc (by decide)
  have hsettle : ¬ (q.op = opNegDetect ∧ s.ngPhase = .settle) := by
    rintro ⟨hc, -⟩
    rw [h.op] at hc
    exact absurd hc (by decide)
  have hi := fetch_of_request h.running h.framer (fun hc => absurd hc hruns) hsettle
  rw [step_alone h.alone hi, decodeRequest_regUploadAll h.op]

theorem Passing.dispatch (i : Nat) : Passing q (dispatch i s).2 := by
  rw [dispatch_writes]
  exact ⟨h.alone, h.running, h.op, h.framer⟩

theorem Passing.withPass (u : Bool) (l : List Nat) : Passing q { s with upActive := u, queue := l } :=
  ⟨h.alone, h.running, h.op, h.framer⟩

end

/-- The entries leave the queue one a step. -/
theorem run_entries {q : Request} (l : List Nat) : ∀ {s : State}, Passing q s → s.upActive = true → s.queue = l →
    ∃ t, run l.length s = .next t ∧ Passing q t ∧ t.upActive = true ∧ t.queue = [] ∧ PassKeeps l s t := by
  induction l with
  | nil => exact fun {s} h hu hq => ⟨s, rfl, h, hu, hq, passKeeps_refl s⟩
  | cons i l ih =>
    intro s h hu hq
    have hstep : step s = .next (dispatch i { s with queue := l }).2 := by
      rw [h.step, exec_regUploadAll_entry hu hq]
    have hpass : Passing q (dispatch i { s with queue := l }).2 := (h.withPass s.upActive l).dispatch i
    have hkeeps : PassKeeps [i] s (dispatch i { s with queue := l }).2 := by
      have hentry := dispatch_keeps i { s with queue := l }
      exact ⟨hentry.slot, hentry.offline, hentry.txLength, hentry.resp, hentry.connected, hentry.matched, hentry.rx⟩
    obtain ⟨t, hrun, ht, hup, hempty, hrest⟩ :=
      ih hpass (by rw [dispatch_writes]; exact hu) (by rw [dispatch_writes])
    exact ⟨t, by rw [List.length_cons, run_succ hstep, hrun], ht, hup, hempty, hkeeps.trans hrest⟩

/-- Settles O56: the pass begins, its entries leave the queue one a step, and it ends with `OK`. -/
theorem passDrainsTheQueue : Obligations.PassDrainsTheQueue := by
  intro s q hinv ha hrun hop hu
  have hcur : s.curOp = some opRegUploadAll := by rw [curOp_of_cur hrun.2, hop]; rfl
  have hp : s.ngPhase = .idle := hinv.ngPhase_idle (by rw [hcur]; decide)
  have hf : s.frState = .idle := hinv.frState_idle (by rw [hcur]; decide) (by rw [hp]; nofun)
  have h : Passing q s := ⟨ha, hrun, hop, hf⟩
  have hbegin : step s = .next { s with upActive := true } := by rw [h.step, exec_regUploadAll_begin hu]
  obtain ⟨t, hentries, ht, hup, hempty, hkeeps⟩ := run_entries s.queue (h.withPass true s.queue) rfl rfl
  have hend : step t = .next (State.finish .ok .none { t with upActive := false }) := by
    rw [ht.step, exec_regUploadAll_end hup hempty]
  refine ⟨State.finish .ok .none { t with upActive := false }, ?_, hempty, rfl, rfl, rfl, ?_, hkeeps.slot,
    hkeeps.offline, hkeeps.txLength, hkeeps.connected, hkeeps.matched, hkeeps.rx⟩
  · rw [run_succ hbegin, run_add hentries, run_succ hend, run_zero]
  · rw [finish_resp]
    exact congrArg (· ++ _) hkeeps.resp

end Sys2Proof.Machine
end
